-- ==== Sys2Proof/Word.lean ====
section
/-! DEFINITION. The word types of the core. Every value is unsigned (spec/00_scope.md R6); `ADDR_W` and
`LEN_W` take the spec's value 64 (R5, D2; notes/assumptions/1.md). -/

namespace Sys2Proof

/-- A `u64`: a working register, a constant, a digest (R5: `DIGEST_W` = 64). -/
abbrev U64 := BitVec 64

/-- A byte of memory (R34). -/
abbrev Byte := BitVec 8

/-- A byte address, or an offset that an address is formed from (`ADDR_W` = 64). -/
abbrev Addr := BitVec 64

/-- A length or a window offset (`LEN_W` = 64). -/
abbrev Len := BitVec 64

end Sys2Proof
end

