-- ==== Sys2Proof/Config.lean ====
section
/-! DEFINITION. What an implementation fixes: the shape of the constants' configuration record (its values
are in Machine/Constants.lean) and the free values the spec leaves open. -/

namespace Sys2Proof

/-- The configuration record that R26 asks for: the three hardwired tuning constants. -/
structure Tuning where
  k0 : U64
  k1 : U64
  k2 : U64
  deriving DecidableEq, Repr

/-- The free values, read at a counter held in State. No body: nothing can be proved of any one value.
They stand for END when `N < 97` (R31, R101) and for the working registers after a streaming command (R24,
R105); notes/assumptions/4.md. -/
opaque Config.freeWord : Nat → U64

end Sys2Proof
end

