-- ==== Sys2Proof/Machine/Constants.lean ====
section
/-! DEFINITION. The values of the configuration record (spec/10_state.md R26). The spec takes `K0` and `K1`
from general knowledge (D20; UNVERIFIED, notes/assumptions/2.md). -/

namespace Sys2Proof.Machine

/-- The hardwired constants `K0`, `K1`, `K2` (R26). -/
def tuning : Tuning where
  k0 := 0xc3a5c85c97cb3127
  k1 := 0xb492b66fbe98f273
  k2 := 0x9ae16a3b2f90404f

/-- `K0`. -/
def k0 : U64 := tuning.k0

/-- `K1`. -/
def k1 : U64 := tuning.k1

/-- `K2`. -/
def k2 : U64 := tuning.k2

end Sys2Proof.Machine
end

