-- ==== Sys2Proof/Machine/Bytes.lean ====
section
/-! DEFINITION. The byte order, decided once (spec/20_memory.md R52): the byte at the lowest place is the
least significant. -/

namespace Sys2Proof.Machine

/-- The value of a list of bytes, the first byte in bits 7:0 (the sum of R53). Bytes past the eighth fall
off the top. -/
def leU64 : List Byte → U64
  | [] => 0
  | b :: bs => b.setWidth 64 ||| (leU64 bs <<< 8)

/-- Byte `k` of a word, byte 0 the least significant. -/
def byteOf (v : U64) (k : Nat) : Byte := (v >>> (8 * k)).setWidth 8

/-- The eight bytes of a word, least significant first. -/
def u64Bytes (v : U64) : List Byte :=
  [byteOf v 0, byteOf v 1, byteOf v 2, byteOf v 3, byteOf v 4, byteOf v 5, byteOf v 6, byteOf v 7]

/-- The low `n` bytes of a natural number, least significant first. -/
def natBytes : Nat → Nat → List Byte
  | 0, _ => []
  | n + 1, w => BitVec.ofNat 8 w :: natBytes n (w / 256)

end Sys2Proof.Machine
end

