-- ==== Sys2Proof/Syntax.lean ====
section
/-! DEFINITION. One constructor for each row of spec/opcode_table.json (spec/30_encoding.md R85). -/

namespace Sys2Proof

/-- The two rotate counts of `HUO` (R200: "a literal rotate count, 30 or 31"). -/
inductive HuoCount where
  | r30
  | r31
  deriving DecidableEq, Repr

/-- An operation label with the operands its rule gives it. Routines and steps take theirs from the latches
and registers, so their constructors have none. -/
inductive Instr where
  -- the command (R100)
  | hash64
  -- the tier routines (R140, R145, R161, R162, R185, R204)
  | hl0to16
  | hl17to32
  | hl33to64
  | hl65to96
  | h64na
  | h64uo
  -- the sub-cases of tier 0 (R141 to R144)
  | hl0
  | hl1to3
  | hl4to7
  | hl8to16
  -- the primitive stages (R120 to R125, R160, R180, R181, R200)
  | fetch8 (i : Len)
  | fetch32 (i : Len)
  | fetch64 (i : Len)
  | rotr64 (v : U64) (r : Byte)
  | shiftmix (v : U64)
  | hashlen16 (u v mul : U64)
  | h32 (o : Len) (mul seed0 seed1 : U64)
  | weak32 (w x y z a b : U64)
  | weak32s (o : Len) (a b : U64)
  | huo (x y mul : U64) (r : HuoCount)
  -- the sequencer steps (R101, R103, R182 to R184, R201 to R203)
  | startAccept
  | runTier
  | naInit
  | naBlock
  | naFinal
  | uoInit
  | uoBlock
  | uoFinal
  deriving DecidableEq, Repr

end Sys2Proof
end

