-- ==== Sys2Proof/WellFormed.lean ====
section
/-! DEFINITION. Which terms of `Instr` are instructions. The one check is on the count of `ROTR64`: a count
is 0 to 63 (spec/41_primitive_stages.md R123 defines 0 and 1 to 63). Conditions on the state (a window offset
below N, an enabled step) are not well-formedness; the meanings check them. -/

namespace Sys2Proof

/-- The well-formedness check, as a Bool so that `decide` runs it. -/
def Instr.wellFormed : Instr → Bool
  | .rotr64 _ r => decide (r.toNat < 64)
  | .hash64 | .hl0to16 | .hl17to32 | .hl33to64 | .hl65to96 | .h64na | .h64uo => true
  | .hl0 | .hl1to3 | .hl4to7 | .hl8to16 => true
  | .fetch8 _ | .fetch32 _ | .fetch64 _ | .shiftmix _ | .hashlen16 _ _ _ => true
  | .h32 _ _ _ _ | .weak32 _ _ _ _ _ _ | .weak32s _ _ _ | .huo _ _ _ _ => true
  | .startAccept | .runTier | .naInit | .naBlock | .naFinal => true
  | .uoInit | .uoBlock | .uoFinal => true

end Sys2Proof
end

