-- ==== Sys2Proof/Decode.lean ====
section
/-! DEFINITION. The label byte `OPID` of spec/30_encoding.md R85 and the operands after it.

No wire carries a label (R85), and the spec gives a stage's operands no bits. The layout behind the label byte
is the model's (DESIGN CHOICE, notes/assumptions/5.md): each `u64` operand of the rule, in the rule's order, as
eight bytes, least significant first; the count of `ROTR64` as one byte; the count of `HUO` as one byte, 0 for
30 and 1 for 31. -/

namespace Sys2Proof

open Sys2Proof.Machine

/-- Why bytes are no label word. -/
inductive DecodeError where
  /-- There is no byte at all. -/
  | noLabel
  /-- The label names nothing (R86: "`OPID` values not in rule R85 name nothing"). -/
  | unknownLabel (b : Byte)
  /-- The bytes end inside an operand. -/
  | missingOperand
  /-- A rotate count outside the stage's range (R123, R200). -/
  | badRotateCount (b : Byte)
  deriving DecidableEq, Repr

/-- The label of an operation, the table of R85. -/
def opid : Instr → Byte
  | .hash64 => 0x00
  | .hl0to16 => 0x10
  | .hl17to32 => 0x11
  | .hl33to64 => 0x12
  | .hl65to96 => 0x13
  | .h64na => 0x14
  | .h64uo => 0x15
  | .hl0 => 0x18
  | .hl1to3 => 0x19
  | .hl4to7 => 0x1a
  | .hl8to16 => 0x1b
  | .fetch8 _ => 0x20
  | .fetch32 _ => 0x21
  | .fetch64 _ => 0x22
  | .rotr64 _ _ => 0x23
  | .shiftmix _ => 0x24
  | .hashlen16 _ _ _ => 0x25
  | .h32 _ _ _ _ => 0x26
  | .weak32 _ _ _ _ _ _ => 0x27
  | .weak32s _ _ _ => 0x28
  | .huo _ _ _ _ => 0x29
  | .startAccept => 0x30
  | .runTier => 0x31
  | .naInit => 0x34
  | .naBlock => 0x35
  | .naFinal => 0x36
  | .uoInit => 0x38
  | .uoBlock => 0x39
  | .uoFinal => 0x3a

/-- One 64-bit operand off the front of the bytes. -/
def takeU64 : List Byte → Except DecodeError (U64 × List Byte)
  | b0 :: b1 :: b2 :: b3 :: b4 :: b5 :: b6 :: b7 :: rest =>
    .ok (leU64 [b0, b1, b2, b3, b4, b5, b6, b7], rest)
  | _ => .error .missingOperand

/-- The count byte of `ROTR64`, 0 to 63 (R123). -/
def takeCount : List Byte → Except DecodeError (Byte × List Byte)
  | [] => .error .missingOperand
  | b :: rest => if b.toNat < 64 then .ok (b, rest) else .error (.badRotateCount b)

/-- The count byte of `HUO` (R200). -/
def takeHuoCount : List Byte → Except DecodeError (HuoCount × List Byte)
  | [] => .error .missingOperand
  | b :: rest =>
    if b = 0 then .ok (.r30, rest) else if b = 1 then .ok (.r31, rest) else .error (.badRotateCount b)

/-- The operands that follow a label byte. -/
def decodeOperands (op : Byte) (bs : List Byte) : Except DecodeError (Instr × List Byte) :=
  match op.toNat with
  | 0x00 => .ok (.hash64, bs)
  | 0x10 => .ok (.hl0to16, bs)
  | 0x11 => .ok (.hl17to32, bs)
  | 0x12 => .ok (.hl33to64, bs)
  | 0x13 => .ok (.hl65to96, bs)
  | 0x14 => .ok (.h64na, bs)
  | 0x15 => .ok (.h64uo, bs)
  | 0x18 => .ok (.hl0, bs)
  | 0x19 => .ok (.hl1to3, bs)
  | 0x1a => .ok (.hl4to7, bs)
  | 0x1b => .ok (.hl8to16, bs)
  | 0x20 => do
    let (i, bs) ← takeU64 bs
    .ok (.fetch8 i, bs)
  | 0x21 => do
    let (i, bs) ← takeU64 bs
    .ok (.fetch32 i, bs)
  | 0x22 => do
    let (i, bs) ← takeU64 bs
    .ok (.fetch64 i, bs)
  | 0x23 => do
    let (v, bs) ← takeU64 bs
    let (r, bs) ← takeCount bs
    .ok (.rotr64 v r, bs)
  | 0x24 => do
    let (v, bs) ← takeU64 bs
    .ok (.shiftmix v, bs)
  | 0x25 => do
    let (u, bs) ← takeU64 bs
    let (v, bs) ← takeU64 bs
    let (mul, bs) ← takeU64 bs
    .ok (.hashlen16 u v mul, bs)
  | 0x26 => do
    let (o, bs) ← takeU64 bs
    let (mul, bs) ← takeU64 bs
    let (seed0, bs) ← takeU64 bs
    let (seed1, bs) ← takeU64 bs
    .ok (.h32 o mul seed0 seed1, bs)
  | 0x27 => do
    let (w, bs) ← takeU64 bs
    let (x, bs) ← takeU64 bs
    let (y, bs) ← takeU64 bs
    let (z, bs) ← takeU64 bs
    let (a, bs) ← takeU64 bs
    let (b, bs) ← takeU64 bs
    .ok (.weak32 w x y z a b, bs)
  | 0x28 => do
    let (o, bs) ← takeU64 bs
    let (a, bs) ← takeU64 bs
    let (b, bs) ← takeU64 bs
    .ok (.weak32s o a b, bs)
  | 0x29 => do
    let (x, bs) ← takeU64 bs
    let (y, bs) ← takeU64 bs
    let (mul, bs) ← takeU64 bs
    let (r, bs) ← takeHuoCount bs
    .ok (.huo x y mul r, bs)
  | 0x30 => .ok (.startAccept, bs)
  | 0x31 => .ok (.runTier, bs)
  | 0x34 => .ok (.naInit, bs)
  | 0x35 => .ok (.naBlock, bs)
  | 0x36 => .ok (.naFinal, bs)
  | 0x38 => .ok (.uoInit, bs)
  | 0x39 => .ok (.uoBlock, bs)
  | 0x3a => .ok (.uoFinal, bs)
  | _ => .error (.unknownLabel op)

/-- Bytes to an operation and the bytes after it, or a named reason. Total. -/
def decode : List Byte → Except DecodeError (Instr × List Byte)
  | [] => .error .noLabel
  | op :: bs => decodeOperands op bs

/-- The count byte of `HUO`. -/
def huoByte : HuoCount → Byte
  | .r30 => 0
  | .r31 => 1

/-- The operand bytes of an operation. -/
def operandBytes : Instr → List Byte
  | .fetch8 i | .fetch32 i | .fetch64 i => u64Bytes i
  | .rotr64 v r => u64Bytes v ++ [r]
  | .shiftmix v => u64Bytes v
  | .hashlen16 u v mul => u64Bytes u ++ u64Bytes v ++ u64Bytes mul
  | .h32 o mul seed0 seed1 => u64Bytes o ++ u64Bytes mul ++ u64Bytes seed0 ++ u64Bytes seed1
  | .weak32 w x y z a b =>
    u64Bytes w ++ u64Bytes x ++ u64Bytes y ++ u64Bytes z ++ u64Bytes a ++ u64Bytes b
  | .weak32s o a b => u64Bytes o ++ u64Bytes a ++ u64Bytes b
  | .huo x y mul r => u64Bytes x ++ u64Bytes y ++ u64Bytes mul ++ [huoByte r]
  | .hash64 | .hl0to16 | .hl17to32 | .hl33to64 | .hl65to96 | .h64na | .h64uo => []
  | .hl0 | .hl1to3 | .hl4to7 | .hl8to16 => []
  | .startAccept | .runTier | .naInit | .naBlock | .naFinal | .uoInit | .uoBlock | .uoFinal => []

/-- The bytes of an operation: its label, then its operands. -/
def encode (i : Instr) : List Byte := opid i :: operandBytes i

/-- The longest label word: `WEAK32`, one byte and six words. -/
def maxLabelBytes : Nat := 49

/-- The bytes of a table word: the low `nbits / 8` bytes of `w`, then zeros up to the longest word. -/
def tableBytes (nbits w : Nat) : List Byte :=
  natBytes (nbits / 8) w ++ List.replicate (maxLabelBytes - nbits / 8) 0

/-- The operation the decoder reads from a word of spec/opcode_table.json, every bit above `nbits` zero. -/
def decodeTableWord (nbits w : Nat) : Option Instr :=
  match decode (tableBytes nbits w) with
  | .ok (i, _) => some i
  | .error _ => none

end Sys2Proof
end

