-- ==== Sys2Proof/Machine/State.lean ====
section
/-! DEFINITION. The state of one core instance (spec/10_state.md R20 to R36), the host's memory and pending
actions beside it, and the named reasons a step can stop. -/

namespace Sys2Proof.Machine

/-- `PHASE` (R30), the 2-bit field in the program counter's place. -/
inductive Phase where
  | idle
  | init
  | block
  | final
  deriving DecidableEq, Repr

/-- The value of the `PHASE` field (R30). -/
def Phase.code : Phase → BitVec 2
  | .idle => 0
  | .init => 1
  | .block => 2
  | .final => 3

/-- `TIER`: exactly six values (spec/30_encoding.md R83, R86). -/
inductive Tier where
  | t0
  | t1
  | t2
  | t3
  | na
  | uo
  deriving DecidableEq, Repr

/-- The 3-bit tier code (R83). -/
def Tier.code : Tier → BitVec 3
  | .t0 => 0
  | .t1 => 1
  | .t2 => 2
  | .t3 => 3
  | .na => 4
  | .uo => 5

/-- The nine working registers, `x[0]` to `x[8]` in this order (R21). -/
structure Work where
  x : U64
  y : U64
  z : U64
  u : U64
  v1 : U64
  v2 : U64
  w1 : U64
  w2 : U64
  mul : U64
  deriving DecidableEq, Repr

/-- What a stage or routine executed under its own label returns: a `u64`, or the pair of the weak hash
(R180). The model's own (notes/assumptions/5.md). -/
inductive StageResult where
  | word (v : U64)
  | pair (a b : U64)
  deriving DecidableEq, Repr

/-- The five interface registers by number (R27). -/
inductive CReg where
  | cr0
  | cr1
  | cr2
  | cr3
  | cr4
  deriving DecidableEq, Repr

/-- What the host can do: the list of R36 and the lines of R89 (`start` is a write of `CR3`), with the store
to memory of R64 and R254. No action names an agent, since the core has no notion of an owner
(spec/70_reset_and_hazards.md R260): whose actions they are is said by `Event.agent`. -/
inductive HostAction where
  | write (r : CReg) (v : U64)
  | read (r : CReg)
  | wait
  | store (a : Addr) (b : Byte)
  | reset
  deriving DecidableEq, Repr

/-- What comes next: a host action, the agent from which the host actions behind it come (R260,
notes/assumptions/22.md), one turn of the core, or a label word presented to the model's label port
(notes/assumptions/5.md, 12.md). -/
inductive Event where
  | host (h : HostAction)
  | agent (n : Nat)
  | core
  | label (bytes : List Byte)
  deriving DecidableEq, Repr

/-- How far an agent's use of the instance has come, "from its first operand write until its read of `CR4`" (R260): no
use, operands written, a command accepted whose digest is still to be read (notes/assumptions/22.md). -/
inductive Use where
  | free
  | operands
  | command
  deriving DecidableEq, Repr

/-- Why the machine is stuck. -/
inductive Fault where
  /-- Raised by `step` when a MemFault is recorded and only a core step could follow: "no later step of the
  command is enabled" (spec/60_exceptions.md R221). Safe: the hardware holds there too. -/
  | memFault
  deriving DecidableEq, Repr

/-- Why the model makes no claim. Every one is safe: the model stops where the contract ends. -/
inductive Refusal where
  /-- Raised by an arm of `exec` that has no meaning yet; no arm raises it. Safe. -/
  | notModelled (mnemonic : String)
  /-- Raised by a step or window-reading label that is not enabled in this phase and tier, or after a recorded
  MemFault (R30, R221). Safe: the core has no such step. -/
  | notEnabled
  /-- Raised by a routine's label when the latched length is outside the routine's range (R83, R84). Safe: the
  dispatcher never selects it. -/
  | lengthNotSelected
  /-- Raised by a fetching stage whose operand is no offset of the window (R120 to R122, R160, R181). Safe:
  the operand is outside the stage's domain. -/
  | offsetOutsideWindow
  /-- Raised by `ROTR64` with a count of 64 or more (R123 gives it no value). Safe. -/
  | rotateCountOutsideRange
  /-- Raised by a launch before the host has written CR0, CR1 and CR2 since reset (R222, R252). Safe. -/
  | operandsNotWritten
  /-- Raised by a launch whose window wraps past the top of the address space (R61, R222). Safe. -/
  | windowWraps
  /-- Raised by a launch over a location whose read has side effects (R60, R222). Safe. -/
  | windowHasSideEffects
  /-- Raised by a store that changes a byte of the window while BUSY=1 (R60, R222). Safe. -/
  | windowChanged
  /-- Raised by a host read of DIGEST while DONE=0 (R29, R222). Safe. -/
  | digestNotReadable
  /-- Raised when another agent takes its turn on the interface registers in the middle of an agent's use (R260,
  spec/93_implementation_defined.md U18). Safe. -/
  | sharedWithoutAgreement
  /-- Raised by bytes on the label port that are no label word (R86). Safe. -/
  | badLabel (e : DecodeError)
  deriving DecidableEq, Repr

/-- The memory: the admitted addresses with their bytes (spec/20_memory.md R50). -/
abbrev Memory := List Host.Cell

/-- The canonical form: addresses strictly rising from `lo` on, all below 2^64. -/
def memWfFrom : Nat → Memory → Bool
  | _, [] => true
  | lo, (a, _) :: m => decide (lo ≤ a) && decide (a < 2 ^ 64) && memWfFrom (a + 1) m

/-- The canonical form of memory. An unlisted address holds no value, so no listed entry can equal what an
unlisted address reads as. -/
def Memory.wf (m : Memory) : Bool := memWfFrom 0 m

structure State where
  /-- `CR0` BASE (R27). -/
  base : Addr
  /-- `CR1` OFFSET (R27). -/
  offset : Addr
  /-- `CR2` LENGTH (R27). -/
  length : Len
  /-- `CTRL` bit 1 (R28). -/
  busy : Bool
  /-- `CTRL` bit 2 (R28). -/
  done : Bool
  /-- `CR4` DIGEST (R29). -/
  digest : U64
  /-- `x[0]` to `x[8]` (R21). -/
  work : Work
  /-- `PHASE` (R30). -/
  phase : Phase
  /-- `POS` (R31). -/
  pos : Len
  /-- `END` (R31). -/
  endOff : Len
  /-- `S` (R31). -/
  startAddr : Addr
  /-- `N` (R31). -/
  len : Len
  /-- `TIER` (R31). -/
  tier : Tier
  /-- The recorded MemFault (spec/60_exceptions.md R221). -/
  memFault : Bool
  /-- The host's memory (spec/20_memory.md R50). -/
  mem : Memory
  /-- The platform's locations with read side effects, as (first address, size) (R60, R62). -/
  devices : List (Nat × Nat)
  /-- Model's own: CR0 written since reset (R252). -/
  baseWritten : Bool
  /-- Model's own: CR1 written since reset (R252). -/
  offsetWritten : Bool
  /-- Model's own: CR2 written since reset (R252). -/
  lengthWritten : Bool
  /-- Model's own: the result of a label executed on its own. -/
  stage : StageResult
  /-- Model's own: how many free values have been drawn. -/
  free : Nat
  /-- Model's own: what comes next, first first. -/
  agenda : List Event
  /-- Model's own: what the host's `read` actions have read, oldest first (not the reads inside a `wait`,
  notes/assumptions/17.md). -/
  observed : List (CReg × U64)
  /-- Model's own: the agent whose turn it is on the interface registers (R260, U18). -/
  agent : Nat
  /-- Model's own: how far that agent's use of the instance has come (R260, U18). -/
  use : Use
  deriving DecidableEq, Repr

/-- The nine working registers at the value the model names for reset (notes/assumptions/3.md). -/
def Work.zero : Work := ⟨0, 0, 0, 0, 0, 0, 0, 0, 0⟩

/-- The state after reset (R35, R250): `PHASE`, `BUSY` and `DONE` as the spec gives them, every unspecified
register at the value notes/assumptions/3.md names. -/
def State.reset : State where
  base := 0
  offset := 0
  length := 0
  busy := false
  done := false
  digest := 0
  work := Work.zero
  phase := .idle
  pos := 0
  endOff := 0
  startAddr := 0
  len := 0
  tier := .t0
  memFault := false
  mem := []
  devices := []
  baseWritten := false
  offsetWritten := false
  lengthWritten := false
  stage := .word 0
  free := 0
  agenda := []
  observed := []
  agent := 0
  use := .free

end Sys2Proof.Machine
end

