-- ==== Sys2Proof/Machine/Operands.lean ====
section
/-! DEFINITION. Operand assembly (spec/30_encoding.md R82) and the values the formulas form from the length. -/

namespace Sys2Proof.Machine

/-- `S = (BASE + OFFSET) mod 2^ADDR_W` (R31, R82). -/
def windowStart (s : State) : Addr := s.base + s.offset

/-- The length cut point at which the streaming tiers begin. -/
def streams (n : Len) : Bool := decide (97 ≤ n.toNat)

/-- `END = ((N - 1) / 64) * 64` (R31). -/
def blockLimit (n : Len) : Len := (n - 1) / 64 * 64

/-- `END / 64`, how many `BLOCK` steps a streaming command takes (spec/40_command_dispatch.md R109). -/
def blockCount (endOff : Len) : Nat := endOff.toNat / 64

/-- `LAST = N - 64`, the offset of the last 64-byte window (R31). -/
def lastOffset (n : Len) : Len := n - 64

/-- The tail length `(N - 1) & 63` (spec/44_streaming_na.md R184). -/
def tailLength (n : Len) : U64 := (n - 1) &&& 63

/-- The short tiers' multiplier `K2 + N * 2` (spec/42_short_mixers.md R146). -/
def lengthMul (n : Len) : U64 := k2 + n * 2

/-- `Dispatch(len)` (spec/40_command_dispatch.md R102, unsigned comparisons, inclusive upper bounds). -/
def dispatch (n : Len) : Tier :=
  if n.toNat ≤ 16 then .t0
  else if n.toNat ≤ 32 then .t1
  else if n.toNat ≤ 64 then .t2
  else if n.toNat ≤ 96 then .t3
  else if n.toNat ≤ 256 then .na
  else .uo

/-- The window offset operand of a stage that reads `size` bytes: `i + size <= N` (R120 to R122, R160, R181). -/
def offsetInWindow (s : State) (i : Len) (size : Nat) : Bool := decide (i.toNat + size ≤ s.len.toNat)

/-- A length operand inside a routine's inclusive range (R83, R84). -/
def lengthIn (s : State) (lo hi : Nat) : Bool := decide (lo ≤ s.len.toNat) && decide (s.len.toNat ≤ hi)

/-- An address is a window address of the latched command: its offset from `S` is below `N` (R10). -/
def inWindow (s : State) (a : Addr) : Bool := decide ((a - s.startAddr).toNat < s.len.toNat)

end Sys2Proof.Machine
end

