-- ==== Sys2Proof/Machine/Flags.lean ====
section
/-! DEFINITION. The two flags `BUSY` and `DONE` (spec/10_state.md R28) and the free values that stand where
the spec leaves a register without a value. No arithmetic operation writes a flag (R28). -/

namespace Sys2Proof.Machine

/-- `CTRL` as the host reads it, `DONE`, `BUSY`, `START` in bits 2, 1, 0; `START` reads as 0 (R28). -/
def readCtrl (s : State) : BitVec 3 := (BitVec.ofBool s.done) ++ (BitVec.ofBool s.busy) ++ 0#1

/-- `Complete(d)` (spec/40_command_dispatch.md R105): four writes in one step. -/
def complete (d : U64) (s : State) : State :=
  { s with digest := d, busy := false, done := true, phase := .idle }

/-- The flags and phase of an accepted command (R101). -/
def accept (s : State) : State := { s with busy := true, done := false, phase := .init }

/-- The registers the NA tier used, given up after `NA_FINAL`: each holds a free value (R24; `U` is not used
by the tier, R21). -/
def releaseNa (s : State) : State :=
  { s with
    work :=
      { s.work with
        x := Config.freeWord s.free
        y := Config.freeWord (s.free + 1)
        z := Config.freeWord (s.free + 2)
        v1 := Config.freeWord (s.free + 3)
        v2 := Config.freeWord (s.free + 4)
        w1 := Config.freeWord (s.free + 5)
        w2 := Config.freeWord (s.free + 6)
        mul := Config.freeWord (s.free + 7) }
    free := s.free + 8 }

/-- All nine registers given up after `UO_FINAL` (R24). -/
def releaseUo (s : State) : State :=
  { s with
    work :=
      { x := Config.freeWord s.free
        y := Config.freeWord (s.free + 1)
        z := Config.freeWord (s.free + 2)
        u := Config.freeWord (s.free + 3)
        v1 := Config.freeWord (s.free + 4)
        v2 := Config.freeWord (s.free + 5)
        w1 := Config.freeWord (s.free + 6)
        w2 := Config.freeWord (s.free + 7)
        mul := Config.freeWord (s.free + 8) }
    free := s.free + 9 }

end Sys2Proof.Machine
end

