-- ==== Sys2Proof/Machine/Ops.lean ====
section
/-! DEFINITION. The shared operations: the memory port, the fetches, the MemFault outcome (the one abnormal
outcome, spec/60_exceptions.md R221) and reset, the only way out of it (spec/70_reset_and_hazards.md R250). -/

namespace Sys2Proof.Machine

/-- The byte the memory holds at an address, none where it admits no byte (spec/20_memory.md R50). -/
def memLookup : Memory → Nat → Option Byte
  | [], _ => none
  | (k, b) :: m, a => if k < a then memLookup m a else if k = a then some b else none

/-- The memory with one byte stored, in canonical form. The core never stores (R51); the host does (R64). -/
def memStore : Memory → Nat → Byte → Memory
  | [], a, b => [(a, b)]
  | (k, c) :: m, a, b =>
    if a < k then (a, b) :: (k, c) :: m
    else if a = k then (a, b) :: m
    else (k, c) :: memStore m a b

/-- `n` bytes from address `a` on, modulo 2^64; the first address the memory refuses otherwise (R53). -/
def readBytes (m : Memory) (a : Addr) : Nat → Except Addr (List Byte)
  | 0 => .ok []
  | n + 1 =>
    match memLookup m a.toNat with
    | none => .error a
    | some b =>
      match readBytes m (a + 1) n with
      | .ok bs => .ok (b :: bs)
      | .error e => .error e

/-- `MemRead(addr, n)`, zero-extended to 64 bits (R53); an error is `MemFault(addr)`. -/
def memRead (m : Memory) (a : Addr) (n : Nat) : Except Addr U64 :=
  match readBytes m a n with
  | .ok bs => .ok (leU64 bs)
  | .error e => .error e

/-- `Fetch8(i)` (spec/41_primitive_stages.md R120). -/
def fetch8 (s : State) (i : Len) : Except Addr U64 := memRead s.mem (s.startAddr + i) 1

/-- `Fetch32(i)` (R121). -/
def fetch32 (s : State) (i : Len) : Except Addr U64 := memRead s.mem (s.startAddr + i) 4

/-- `Fetch64(i)` (R122). -/
def fetch64 (s : State) (i : Len) : Except Addr U64 := memRead s.mem (s.startAddr + i) 8

/-- The four words of a 32-byte window, in address order. -/
structure Quad where
  w0 : U64
  w1 : U64
  w2 : U64
  w3 : U64
  deriving DecidableEq, Repr

/-- The eight words of a 64-byte block: its first and its second half. -/
structure Block where
  lo : Quad
  hi : Quad
  deriving DecidableEq, Repr

/-- The words of the 32-byte window at offset `o`. -/
def fetchQuad (s : State) (o : Len) : Except Addr Quad := do
  let w0 ← fetch64 s o
  let w1 ← fetch64 s (o + 8)
  let w2 ← fetch64 s (o + 16)
  let w3 ← fetch64 s (o + 24)
  return ⟨w0, w1, w2, w3⟩

/-- The words of the 64-byte block at offset `p`, each read once (spec/20_memory.md R56: whether a word used
twice is read once or twice is not observable). -/
def fetchBlock (s : State) (p : Len) : Except Addr Block := do
  let lo ← fetchQuad s p
  let hi ← fetchQuad s (p + 32)
  return ⟨lo, hi⟩

/-- MemFault (R221): nothing of the step takes effect, the fault is recorded; `BUSY` stays as it is. -/
def recordMemFault (s : State) : State := { s with memFault := true }

/-- The effect of a step whose reads may be refused: all of it, or the recorded MemFault and nothing else. -/
def commit (s : State) : Except Addr State → State
  | .ok t => t
  | .error _ => recordMemFault s

/-- Reset as a host action (R250, R251): every field of the core as after reset, and with it any use of the instance
ended; the host's memory, its pending actions, whose turn it is and what it has read are not the core's. -/
def resetCore (s : State) : State :=
  { State.reset with
    mem := s.mem, devices := s.devices, free := s.free, agenda := s.agenda, observed := s.observed
    agent := s.agent }

/-- A result left by a label executed on its own. -/
def setStage (r : StageResult) (s : State) : State := { s with stage := r }

/-- The working registers written, all at once. -/
def setWork (w : Work) (s : State) : State := { s with work := w }

/-- The sequencer entering the streaming loop: `POS` 0, `PHASE` `BLOCK` (spec/10_state.md R32). -/
def enterLoop (s : State) : State := { s with pos := 0, phase := .block }

/-- The sequencer after a `BLOCK` step (spec/10_state.md R32): `POS` moves on by 64, and `PHASE` becomes `FINAL`
when the new `POS` is `END`. -/
def advanceBlock (s : State) : State :=
  { s with pos := s.pos + 64, phase := if s.pos + 64 = s.endOff then .final else s.phase }

/-- A window can be read: a command is in progress and no MemFault is recorded (R10, R24, R221). -/
def windowOpen (s : State) : Bool := decide (s.phase ≠ .idle) && !s.memFault

/-- A stage or routine that returns one word, executed under its own label. -/
def stageWord (s : State) (r : Except Addr U64) : Host.Outcome State Fault Refusal :=
  .next (commit s (r.map fun v => setStage (.word v) s))

/-- A fetching stage under its own label: enabled while a window can be read, its operand an offset of it. -/
def fetchingStage (s : State) (i : Len) (size : Nat) (r : Except Addr State) :
    Host.Outcome State Fault Refusal :=
  if !windowOpen s then .refused .notEnabled
  else if !offsetInWindow s i size then .refused .offsetOutsideWindow
  else .next (commit s r)

/-- A routine selected by the length, under its own label: its value goes where a stage's does
(notes/assumptions/6.md). -/
def selectedRoutine (s : State) (lo hi : Nat) (r : Except Addr U64) : Host.Outcome State Fault Refusal :=
  if !windowOpen s then .refused .notEnabled
  else if !lengthIn s lo hi then .refused .lengthNotSelected
  else stageWord s r

/-- A sequencer step under its own label: enabled in one phase, and in one tier where it names one (R30). -/
def sequencerStep (s : State) (enabled : Bool) (r : Except Addr State) : Host.Outcome State Fault Refusal :=
  if enabled && !s.memFault then .next (commit s r) else .refused .notEnabled

end Sys2Proof.Machine
end

