-- ==== Sys2Proof/Machine/Stages.lean ====
section
/-! DEFINITION. The primitive stages (spec/41_primitive_stages.md, spec/43_mid_mixers.md R160,
spec/44_streaming_na.md R180, R181, spec/45_streaming_uo.md R200) as pure functions, and their meanings as
labels. Arithmetic is modulo 2^64 and writes no flag (R126). The formulas the spec marks as general knowledge
are UNVERIFIED against the reference algorithm (notes/assumptions/2.md). -/

namespace Sys2Proof.Machine

/-- `ROTR64(v, r)` (R123). -/
def rotr (v : U64) (r : Nat) : U64 := if r = 0 then v else (v >>> r) ||| (v <<< (64 - r))

/-- `SHIFTMIX(v)` (R124). -/
def shiftMix (v : U64) : U64 := v ^^^ (v >>> 47)

/-- `HASHLEN16(u, v, mul)` (R125). -/
def hashLen16 (u v mul : U64) : U64 :=
  let a := (u ^^^ v) * mul
  let a := a ^^^ (a >>> 47)
  let b := (v ^^^ a) * mul
  let b := b ^^^ (b >>> 47)
  b * mul

/-- `H32` on the four words of its window (R160, resolution C3). -/
def h32Words (q : Quad) (mul seed0 seed1 : U64) : U64 :=
  let a := q.w0 * k1
  let b := q.w1
  let c := q.w3 * mul
  let d := q.w2 * k2
  let u := rotr (a + b) 43 + rotr c 30 + d + seed0
  let v := a + rotr (b + k2) 18 + c + seed1
  let e := shiftMix ((u ^^^ v) * mul)
  shiftMix ((v ^^^ e) * mul)

/-- `H32(o, mul, seed0, seed1)` (R160). -/
def h32At (s : State) (o : Len) (mul seed0 seed1 : U64) : Except Addr U64 :=
  (fetchQuad s o).map fun q => h32Words q mul seed0 seed1

/-- `WEAK32(w, x, y, z, a, b)` (R180). -/
def weakPair (w x y z a b : U64) : U64 × U64 :=
  let a1 := a + w
  let b1 := rotr (b + a1 + z) 21
  let c := a1
  let a2 := a1 + x + y
  let b2 := b1 + rotr a2 44
  (a2 + z, b2 + c)

/-- `WEAK32` on the words of a window in address order (R181). -/
def weakQuad (q : Quad) (a b : U64) : U64 × U64 := weakPair q.w0 q.w1 q.w2 q.w3 a b

/-- `WEAK32S(o, a, b)` (R181). -/
def weakAt (s : State) (o : Len) (a b : U64) : Except Addr (U64 × U64) :=
  (fetchQuad s o).map fun q => weakQuad q a b

/-- `HUO(x, y, mul, r)` (R200, resolution C7). -/
def huoMix (x y mul : U64) (r : Nat) : U64 :=
  let a := (x ^^^ y) * mul
  let a := a ^^^ (a >>> 47)
  let b := (y ^^^ a) * mul
  rotr b r * mul

/-- The rotate count of `HUO` (R200). -/
def huoCount : HuoCount → Nat
  | .r30 => 30
  | .r31 => 31

/-- `FETCH8` (R120). -/
def execFetch8 (i : Len) (s : State) : Host.Outcome State Fault Refusal :=
  fetchingStage s i 1 ((fetch8 s i).map fun v => setStage (.word v) s)

/-- `FETCH32` (R121). -/
def execFetch32 (i : Len) (s : State) : Host.Outcome State Fault Refusal :=
  fetchingStage s i 4 ((fetch32 s i).map fun v => setStage (.word v) s)

/-- `FETCH64` (R122). -/
def execFetch64 (i : Len) (s : State) : Host.Outcome State Fault Refusal :=
  fetchingStage s i 8 ((fetch64 s i).map fun v => setStage (.word v) s)

/-- `ROTR64` (R123); a count of 64 or more is no operand of it. -/
def execRotr64 (v : U64) (r : Byte) (s : State) : Host.Outcome State Fault Refusal :=
  if r.toNat < 64 then .next (setStage (.word (rotr v r.toNat)) s) else .refused .rotateCountOutsideRange

/-- `SHIFTMIX` (R124). -/
def execShiftmix (v : U64) (s : State) : Host.Outcome State Fault Refusal :=
  .next (setStage (.word (shiftMix v)) s)

/-- `HASHLEN16` (R125). -/
def execHashlen16 (u v mul : U64) (s : State) : Host.Outcome State Fault Refusal :=
  .next (setStage (.word (hashLen16 u v mul)) s)

/-- `H32` (R160). -/
def execH32 (o : Len) (mul seed0 seed1 : U64) (s : State) : Host.Outcome State Fault Refusal :=
  fetchingStage s o 32 ((h32At s o mul seed0 seed1).map fun v => setStage (.word v) s)

/-- `WEAK32` (R180). -/
def execWeak32 (w x y z a b : U64) (s : State) : Host.Outcome State Fault Refusal :=
  .next (setStage (.pair (weakPair w x y z a b).1 (weakPair w x y z a b).2) s)

/-- `WEAK32S` (R181). -/
def execWeak32s (o : Len) (a b : U64) (s : State) : Host.Outcome State Fault Refusal :=
  fetchingStage s o 32 ((weakAt s o a b).map fun r => setStage (.pair r.1 r.2) s)

/-- `HUO` (R200). -/
def execHuo (x y mul : U64) (r : HuoCount) (s : State) : Host.Outcome State Fault Refusal :=
  .next (setStage (.word (huoMix x y mul (huoCount r))) s)

end Sys2Proof.Machine
end

