-- ==== Sys2Proof/Machine/MidMixers.lean ====
section
/-! DEFINITION. The mid-size mixers, tiers 2 and 3 (spec/43_mid_mixers.md): locals only, no working register,
no flag. The formulas the spec marks as general knowledge are UNVERIFIED (notes/assumptions/2.md). -/

namespace Sys2Proof.Machine

/-- `HL33TO64()` on its first and last windows (R161). -/
def hl33to64Mix (n : Len) (first last : Quad) : U64 :=
  let mul0 := k2 - 30
  let mul1 := (k2 - 30) + n * 2
  let h0 := h32Words first mul0 0 0
  let h1 := h32Words last mul1 0 0
  ((h1 * mul1) + h0) * mul1

/-- `HL33TO64()` (R161). -/
def hl33to64Value (s : State) : Except Addr U64 := do
  let first ← fetchQuad s 0
  let last ← fetchQuad s (s.len - 32)
  return hl33to64Mix s.len first last

/-- `HL65TO96()` on its first, middle and last windows (R162). -/
def hl65to96Mix (n : Len) (first middle last : Quad) : U64 :=
  let mul0 := k2 - 114
  let mul1 := (k2 - 114) + n * 2
  let h0 := h32Words first mul0 0 0
  let h1 := h32Words middle mul1 0 0
  let h2 := h32Words last mul1 h0 h1
  ((h2 * 9) + (h0 >>> 17) + (h1 >>> 21)) * mul1

/-- `HL65TO96()` (R162). -/
def hl65to96Value (s : State) : Except Addr U64 := do
  let first ← fetchQuad s 0
  let middle ← fetchQuad s 32
  let last ← fetchQuad s (s.len - 32)
  return hl65to96Mix s.len first middle last

/-- `HL33TO64` (R161). -/
def execHl33to64 (s : State) : Host.Outcome State Fault Refusal := selectedRoutine s 33 64 (hl33to64Value s)

/-- `HL65TO96` (R162). -/
def execHl65to96 (s : State) : Host.Outcome State Fault Refusal := selectedRoutine s 65 96 (hl65to96Value s)

end Sys2Proof.Machine
end

