-- ==== Sys2Proof/Machine/ShortMixers.lean ====
section
/-! DEFINITION. The short-input mixers, tiers 0 and 1 (spec/42_short_mixers.md): locals only, no working
register, no flag. The formulas the spec marks as general knowledge are UNVERIFIED (notes/assumptions/2.md). -/

namespace Sys2Proof.Machine

/-- `HL0()` (R141). -/
def hl0Value : U64 := k2

/-- `HL1TO3()` on its three bytes (R142). -/
def hl1to3Mix (n : Len) (a b c : U64) : U64 :=
  let y := a + (b <<< 8)
  let z := n + (c <<< 2)
  shiftMix ((y * k2) ^^^ (z * k0)) * k2

/-- `HL1TO3()` (R142). -/
def hl1to3Value (s : State) : Except Addr U64 := do
  let a ← fetch8 s 0
  let b ← fetch8 s (s.len >>> 1)
  let c ← fetch8 s (s.len - 1)
  return hl1to3Mix s.len a b c

/-- `HL4TO7()` on its two words (R143). -/
def hl4to7Mix (n : Len) (a b : U64) : U64 := hashLen16 (n + (a <<< 3)) b (lengthMul n)

/-- `HL4TO7()` (R143). -/
def hl4to7Value (s : State) : Except Addr U64 := do
  let a ← fetch32 s 0
  let b ← fetch32 s (s.len - 4)
  return hl4to7Mix s.len a b

/-- `HL8TO16()` on its first and last word (R144). -/
def hl8to16Mix (n : Len) (first last : U64) : U64 :=
  let mul := lengthMul n
  let a := first + k2
  let b := last
  let c := rotr b 37 * mul + a
  let d := (rotr a 25 + b) * mul
  hashLen16 c d mul

/-- `HL8TO16()` (R144). -/
def hl8to16Value (s : State) : Except Addr U64 := do
  let first ← fetch64 s 0
  let last ← fetch64 s (s.len - 8)
  return hl8to16Mix s.len first last

/-- `HL0TO16()` (R140): the second decode of R84. -/
def hl0to16Value (s : State) : Except Addr U64 :=
  if 8 ≤ s.len.toNat then hl8to16Value s
  else if 4 ≤ s.len.toNat then hl4to7Value s
  else if 0 < s.len.toNat then hl1to3Value s
  else .ok hl0Value

/-- `HL17TO32()` on the first, second, last and second-to-last words (R145). -/
def hl17to32Mix (n : Len) (first second last beforeLast : U64) : U64 :=
  let mul := lengthMul n
  let a := first * k1
  let b := second
  let c := last * mul
  let d := beforeLast * k2
  hashLen16 (rotr (a + b) 43 + rotr c 30 + d) (a + rotr (b + k2) 18 + c) mul

/-- `HL17TO32()` (R145). -/
def hl17to32Value (s : State) : Except Addr U64 := do
  let first ← fetch64 s 0
  let second ← fetch64 s 8
  let last ← fetch64 s (s.len - 8)
  let beforeLast ← fetch64 s (s.len - 16)
  return hl17to32Mix s.len first second last beforeLast

/-- `HL0` (R141). -/
def execHl0 (s : State) : Host.Outcome State Fault Refusal := selectedRoutine s 0 0 (.ok hl0Value)

/-- `HL1TO3` (R142). -/
def execHl1to3 (s : State) : Host.Outcome State Fault Refusal := selectedRoutine s 1 3 (hl1to3Value s)

/-- `HL4TO7` (R143). -/
def execHl4to7 (s : State) : Host.Outcome State Fault Refusal := selectedRoutine s 4 7 (hl4to7Value s)

/-- `HL8TO16` (R144). -/
def execHl8to16 (s : State) : Host.Outcome State Fault Refusal := selectedRoutine s 8 16 (hl8to16Value s)

/-- `HL0TO16` (R140). -/
def execHl0to16 (s : State) : Host.Outcome State Fault Refusal := selectedRoutine s 0 16 (hl0to16Value s)

/-- `HL17TO32` (R145). -/
def execHl17to32 (s : State) : Host.Outcome State Fault Refusal := selectedRoutine s 17 32 (hl17to32Value s)

end Sys2Proof.Machine
end

