-- ==== Sys2Proof/Machine/StreamingNa.lean ====
section
/-! DEFINITION. The NA streaming tier (spec/44_streaming_na.md R182 to R185) and the shape both streaming tiers
share. The formulas the spec marks as general knowledge are UNVERIFIED (notes/assumptions/2.md). -/

namespace Sys2Proof.Machine

/-- `BLOCK` steps, `k` of them; a MemFault ends them. -/
def runBlocks (block : State → Except Addr State) : Nat → State → State
  | 0, s => s
  | k + 1, s =>
    match block s with
    | .ok t => runBlocks block k t
    | .error _ => recordMemFault s

/-- A streaming routine (R185, R204): `INIT`, then `BLOCK` exactly `END / 64` times, then `FINAL`. A refused
read ends it at the step that made it, whose own effect is lost while the steps before it stand (R221). -/
def runStream (init block final : State → Except Addr State) (s : State) : State :=
  match init s with
  | .error _ => recordMemFault s
  | .ok s1 =>
    let s2 := runBlocks block (blockCount s.endOff) s1
    if s2.memFault then s2 else commit s2 (final s2)

/-- The registers `NA_INIT` seeds, from the window's first word (R182). `U` and `MUL` are not written. -/
def naSeed (first : U64) (w : Work) : Work :=
  let seed : U64 := 81
  let w := { w with x := seed * k2 + first }
  let w := { w with y := seed * k1 + 113 }
  let w := { w with z := shiftMix (w.y * k2 + 113) * k2 }
  { w with v1 := 0, v2 := 0, w1 := 0, w2 := 0 }

/-- The register update of `NA_BLOCK`, statements in order (R183). -/
def naMix (b : Block) (w : Work) : Work :=
  let w := { w with x := rotr (w.x + w.y + w.v1 + b.lo.w1) 37 * k1 }
  let w := { w with y := rotr (w.y + w.v2 + b.hi.w2) 42 * k1 }
  let w := { w with x := w.x ^^^ w.w2 }
  let w := { w with y := w.y + w.v1 + b.hi.w1 }
  let w := { w with z := rotr (w.z + w.w1) 33 * k1 }
  let v := weakQuad b.lo (w.v2 * k1) (w.x + w.w1)
  let w := { w with v1 := v.1, v2 := v.2 }
  let v := weakQuad b.hi (w.z + w.w2) (w.y + b.lo.w2)
  let w := { w with w1 := v.1, w2 := v.2 }
  { w with z := w.x, x := w.z }

/-- The register update of `NA_FINAL` up to its swap, statements in order (R184); `tail` is `(N - 1) & 63`. -/
def naFinalMix (tail : U64) (b : Block) (w : Work) : Work :=
  let w := { w with mul := k1 + ((w.z &&& 0xff) <<< 1) }
  let w := { w with w1 := w.w1 + tail }
  let w := { w with v1 := w.v1 + w.w1 }
  let w := { w with w1 := w.w1 + w.v1 }
  let w := { w with x := rotr (w.x + w.y + w.v1 + b.lo.w1) 37 * w.mul }
  let w := { w with y := rotr (w.y + w.v2 + b.hi.w2) 42 * w.mul }
  let w := { w with x := w.x ^^^ (w.w2 * 9) }
  let w := { w with y := w.y + (w.v1 * 9) + b.hi.w1 }
  let w := { w with z := rotr (w.z + w.w1) 33 * w.mul }
  let v := weakQuad b.lo (w.v2 * w.mul) (w.x + w.w1)
  let w := { w with v1 := v.1, v2 := v.2 }
  let v := weakQuad b.hi (w.z + w.w2) (w.y + b.lo.w2)
  let w := { w with w1 := v.1, w2 := v.2 }
  { w with z := w.x, x := w.z }

/-- The digest `NA_FINAL` passes to `Complete` (R184). -/
def naDigest (w : Work) : U64 :=
  hashLen16 (hashLen16 w.v1 w.w1 w.mul + shiftMix w.y * k0 + w.z) (hashLen16 w.v2 w.w2 w.mul + w.x) w.mul

/-- `NA_INIT` (R182). -/
def naInit (s : State) : Except Addr State :=
  (fetch64 s 0).map fun first => enterLoop (setWork (naSeed first s.work) s)

/-- `NA_BLOCK` (R183) on the block at `POS`. -/
def naBlock (s : State) : Except Addr State :=
  (fetchBlock s s.pos).map fun b => advanceBlock (setWork (naMix b s.work) s)

/-- `NA_FINAL` (R184) on the last 64 bytes of the window. After it the registers hold no value (R24). -/
def naFinal (s : State) : Except Addr State :=
  (fetchBlock s (lastOffset s.len)).map fun b =>
    releaseNa (complete (naDigest (naFinalMix (tailLength s.len) b s.work)) s)

/-- `H64NA` as one atomic step (R185; R32 allows it). -/
def runNa (s : State) : State := runStream naInit naBlock naFinal s

/-- `NA_INIT` (R182): enabled in `INIT` with tier 4. -/
def execNaInit (s : State) : Host.Outcome State Fault Refusal :=
  sequencerStep s (decide (s.phase = .init) && decide (s.tier = .na)) (naInit s)

/-- `NA_BLOCK` (R183): enabled in `BLOCK` with tier 4. -/
def execNaBlock (s : State) : Host.Outcome State Fault Refusal :=
  sequencerStep s (decide (s.phase = .block) && decide (s.tier = .na)) (naBlock s)

/-- `NA_FINAL` (R184): enabled in `FINAL` with tier 4. -/
def execNaFinal (s : State) : Host.Outcome State Fault Refusal :=
  sequencerStep s (decide (s.phase = .final) && decide (s.tier = .na)) (naFinal s)

/-- `H64NA` (R185): enabled where its first step is. -/
def execH64na (s : State) : Host.Outcome State Fault Refusal :=
  sequencerStep s (decide (s.phase = .init) && decide (s.tier = .na)) (.ok (runNa s))

end Sys2Proof.Machine
end

