-- ==== Sys2Proof/Machine/StreamingUo.lean ====
section
/-! DEFINITION. The UO streaming tier (spec/45_streaming_uo.md R201 to R204). The formulas the spec marks as
general knowledge are UNVERIFIED (notes/assumptions/2.md). -/

namespace Sys2Proof.Machine

/-- The registers after `UO_INIT`, all nine, from fixed seeds (R201). -/
def uoSeed : Work :=
  let seed0 : U64 := 81
  let seed1 : U64 := 0
  let y := seed1 * k2 + 113
  let z := shiftMix (y * k2) * k2
  let u := seed0 - z
  { x := seed0 * k2, y := y, z := z, u := u, v1 := seed0, v2 := seed1, w1 := 0, w2 := 0,
    mul := k2 + (u &&& 0x82) }

/-- Group 1 of `UO_BLOCK`: absorb the block (R202). -/
def uoAbsorb (b : Block) (w : Work) : Work :=
  let w := { w with x := w.x + b.lo.w0 + b.lo.w1 }
  let w := { w with y := w.y + b.lo.w2 }
  let w := { w with z := w.z + b.lo.w3 }
  let w := { w with v1 := w.v1 + b.hi.w0 }
  let w := { w with v2 := w.v2 + b.hi.w1 + b.lo.w1 }
  let w := { w with w1 := w.w1 + b.hi.w2 }
  { w with w2 := w.w2 + b.hi.w3 }

/-- Group 2 of `UO_BLOCK`: rotate and multiply, then the first swap, `U` with `Y` (R202). -/
def uoRotate (w : Work) : Work :=
  let w := { w with x := rotr w.x 26 }
  let w := { w with x := w.x * 9 }
  let w := { w with y := rotr w.y 29 }
  let w := { w with z := w.z * w.mul }
  let w := { w with v1 := rotr w.v1 33 }
  let w := { w with v2 := rotr w.v2 30 }
  let w := { w with w1 := w.w1 ^^^ w.x }
  let w := { w with w1 := w.w1 * 9 }
  let w := { w with z := rotr w.z 32 }
  let w := { w with z := w.z + w.w2 }
  let w := { w with w2 := w.w2 + w.z }
  let w := { w with z := w.z * 9 }
  { w with u := w.y, y := w.u }

/-- Group 3 of `UO_BLOCK`: absorb the block again, at other positions (R202). -/
def uoReabsorb (b : Block) (w : Work) : Work :=
  let w := { w with z := w.z + b.lo.w0 + b.hi.w2 }
  let w := { w with v1 := w.v1 + b.lo.w2 }
  let w := { w with v2 := w.v2 + b.lo.w3 }
  let w := { w with w1 := w.w1 + b.hi.w0 }
  let w := { w with w2 := w.w2 + b.hi.w1 + b.hi.w2 }
  let w := { w with x := w.x + b.lo.w1 }
  { w with y := w.y + b.hi.w3 }

/-- Group 4 of `UO_BLOCK`: cross-mix, then the second swap, `U` with `Z` (R202). -/
def uoCross (w : Work) : Work :=
  let w := { w with y := w.y + w.v1 }
  let w := { w with v1 := w.v1 + (w.x - w.y) }
  let w := { w with v2 := w.v2 + w.w1 }
  let w := { w with w1 := w.w1 + w.v2 }
  let w := { w with w2 := w.w2 + (w.x - w.y) }
  let w := { w with x := w.x + w.w2 }
  let w := { w with w2 := rotr w.w2 34 }
  { w with u := w.z, z := w.u }

/-- The register update of `UO_BLOCK`, its four groups in order (R202). -/
def uoMix (b : Block) (w : Work) : Work := uoCross (uoReabsorb b (uoRotate (uoAbsorb b w)))

/-- The register update of `UO_FINAL`, statements in order (R203); `tail` is `(N - 1) & 63`. -/
def uoFinalMix (tail : U64) (b : Block) (w : Work) : Work :=
  let w := { w with u := w.u * 9 }
  let w := { w with v2 := rotr w.v2 28 }
  let w := { w with v1 := rotr w.v1 20 }
  let w := { w with w1 := w.w1 + tail }
  let w := { w with u := w.u + w.y }
  let w := { w with y := w.y + w.u }
  let w := { w with x := rotr ((w.y - w.x) + w.v1 + b.lo.w1) 37 * w.mul }
  let w := { w with y := rotr (w.y ^^^ w.v2 ^^^ b.hi.w2) 42 * w.mul }
  let w := { w with x := w.x ^^^ (w.w2 * 9) }
  let w := { w with y := w.y + w.v1 + b.hi.w1 }
  let w := { w with z := rotr (w.z + w.w1) 33 * w.mul }
  let v := weakQuad b.lo (w.v2 * w.mul) (w.x + w.w1)
  let w := { w with v1 := v.1, v2 := v.2 }
  let v := weakQuad b.hi (w.z + w.w2) (w.y + b.lo.w2)
  { w with w1 := v.1, w2 := v.2 }

/-- The digest `UO_FINAL` passes to `Complete` (R203). -/
def uoDigest (w : Work) : U64 :=
  huoMix (hashLen16 (w.v1 + w.x) (w.w1 ^^^ w.y) w.mul + w.z - w.u)
    (huoMix (w.v2 + w.y) (w.w2 + w.z) k2 30 ^^^ w.x) k2 31

/-- `UO_INIT` (R201): reads no memory. -/
def uoInit (s : State) : Except Addr State := .ok (enterLoop (setWork uoSeed s))

/-- `UO_BLOCK` (R202) on the block at `POS`. -/
def uoBlock (s : State) : Except Addr State :=
  (fetchBlock s s.pos).map fun b => advanceBlock (setWork (uoMix b s.work) s)

/-- `UO_FINAL` (R203) on the last 64 bytes of the window. After it the registers hold no value (R24). -/
def uoFinal (s : State) : Except Addr State :=
  (fetchBlock s (lastOffset s.len)).map fun b =>
    releaseUo (complete (uoDigest (uoFinalMix (tailLength s.len) b s.work)) s)

/-- `H64UO` as one atomic step (R204; R32 allows it). -/
def runUo (s : State) : State := runStream uoInit uoBlock uoFinal s

/-- `UO_INIT` (R201): enabled in `INIT` with tier 5. -/
def execUoInit (s : State) : Host.Outcome State Fault Refusal :=
  sequencerStep s (decide (s.phase = .init) && decide (s.tier = .uo)) (uoInit s)

/-- `UO_BLOCK` (R202): enabled in `BLOCK` with tier 5. -/
def execUoBlock (s : State) : Host.Outcome State Fault Refusal :=
  sequencerStep s (decide (s.phase = .block) && decide (s.tier = .uo)) (uoBlock s)

/-- `UO_FINAL` (R203): enabled in `FINAL` with tier 5. -/
def execUoFinal (s : State) : Host.Outcome State Fault Refusal :=
  sequencerStep s (decide (s.phase = .final) && decide (s.tier = .uo)) (uoFinal s)

/-- `H64UO` (R204): enabled where its first step is. -/
def execH64uo (s : State) : Host.Outcome State Fault Refusal :=
  sequencerStep s (decide (s.phase = .init) && decide (s.tier = .uo)) (.ok (runUo s))

end Sys2Proof.Machine
end

