-- ==== Sys2Proof/Machine/Command.lean ====
section
/-! DEFINITION. The command `HASH64`, its acceptance and the first step of a routine
(spec/40_command_dispatch.md R100, R101, R103). -/

namespace Sys2Proof.Machine

/-- The window of the operand registers, as integers, passes the top of the address space (R61, R222). An empty
window wraps for no operands: `N = 0` is legal (R107), `HL0` is independent of `base` and `offset` (R141), and of a launch
with `LENGTH = 0` the spec says "The same end digest results for every value of `CR0` and `CR1`"
(spec/95_test_vectors.md, program P1; notes/assumptions/9.md). -/
def windowWraps (s : State) : Bool :=
  decide (s.length ≠ 0) && decide (2 ^ 64 < s.base.toNat + s.offset.toNat + s.length.toNat)

/-- Some location with a read side effect lies in `[S, S + N)` (R60, R222). -/
def windowTouchesDevice (s : State) : Bool :=
  s.devices.any fun d =>
    decide (max d.1 (windowStart s).toNat < min (d.1 + d.2) ((windowStart s).toNat + s.length.toNat))

/-- Why the model refuses a launch, if it does (the table of R222, R252). -/
def launchRefusal (s : State) : Option Refusal :=
  if !(s.baseWritten && s.offsetWritten && s.lengthWritten) then some .operandsNotWritten
  else if windowWraps s then some .windowWraps
  else if windowTouchesDevice s then some .windowHasSideEffects
  else none

/-- The latches `START_ACCEPT` writes (R31, R101); `END` holds a free value when `N < 97`. -/
def latch (s : State) : State :=
  { s with
    startAddr := windowStart s
    len := s.length
    tier := dispatch s.length
    endOff := if streams s.length then blockLimit s.length else Config.freeWord s.free
    free := if streams s.length then s.free else s.free + 1 }

/-- A `START=1` is ignored: outside `IDLE` it "has no effect at all" (R101), and after a MemFault the core
"accepts no further command" (R221). -/
def startIgnored (s : State) : Bool := decide (s.phase ≠ .idle) || s.memFault

/-- `START_ACCEPT` (R101). -/
def startAccept (s : State) : Host.Outcome State Fault Refusal :=
  if startIgnored s then .next s
  else
    match launchRefusal s with
    | some r => .refused r
    | none => .next (accept (latch s))

/-- `RUN_TIER` (R103): the whole routine for tiers 0 to 3, the seeding step for tiers 4 and 5. -/
def runTier (s : State) : Except Addr State :=
  match s.tier with
  | .t0 => (hl0to16Value s).map fun d => complete d s
  | .t1 => (hl17to32Value s).map fun d => complete d s
  | .t2 => (hl33to64Value s).map fun d => complete d s
  | .t3 => (hl65to96Value s).map fun d => complete d s
  | .na => naInit s
  | .uo => uoInit s

/-- A whole accepted command as one atomic step (R32): the routine the latched tier names. -/
def runCommand (s : State) : State :=
  match s.tier with
  | .t0 | .t1 | .t2 | .t3 => commit s (runTier s)
  | .na => runNa s
  | .uo => runUo s

/-- `START_ACCEPT` (R101). -/
def execStartAccept (s : State) : Host.Outcome State Fault Refusal := startAccept s

/-- `RUN_TIER` (R103): enabled in `INIT`. -/
def execRunTier (s : State) : Host.Outcome State Fault Refusal :=
  sequencerStep s (decide (s.phase = .init)) (runTier s)

/-- `HASH64` (R100): the command of R80 on the operands in CR0 to CR2, from acceptance to completion in one
atomic step (R32). While a command is in progress it is the ignored START of R101. -/
def execHash64 (s : State) : Host.Outcome State Fault Refusal :=
  if startIgnored s then .next s
  else
    match startAccept s with
    | .next t => .next (runCommand t)
    | .fault f => .fault f
    | .refused r => .refused r

end Sys2Proof.Machine
end

