-- ==== Sys2Proof/Machine/Dispatch.lean ====
section
/-! DEFINITION. One arm per operation label of spec/opcode_table.json. -/

namespace Sys2Proof.Machine

def exec (i : Instr) (s : State) : Host.Outcome State Fault Refusal :=
  match i with
  | .hash64 => Sys2Proof.Machine.execHash64 s
  | .hl0to16 => Sys2Proof.Machine.execHl0to16 s
  | .hl17to32 => Sys2Proof.Machine.execHl17to32 s
  | .hl33to64 => Sys2Proof.Machine.execHl33to64 s
  | .hl65to96 => Sys2Proof.Machine.execHl65to96 s
  | .h64na => Sys2Proof.Machine.execH64na s
  | .h64uo => Sys2Proof.Machine.execH64uo s
  | .hl0 => Sys2Proof.Machine.execHl0 s
  | .hl1to3 => Sys2Proof.Machine.execHl1to3 s
  | .hl4to7 => Sys2Proof.Machine.execHl4to7 s
  | .hl8to16 => Sys2Proof.Machine.execHl8to16 s
  | .fetch8 o => Sys2Proof.Machine.execFetch8 o s
  | .fetch32 o => Sys2Proof.Machine.execFetch32 o s
  | .fetch64 o => Sys2Proof.Machine.execFetch64 o s
  | .rotr64 v r => Sys2Proof.Machine.execRotr64 v r s
  | .shiftmix v => Sys2Proof.Machine.execShiftmix v s
  | .hashlen16 u v mul => Sys2Proof.Machine.execHashlen16 u v mul s
  | .h32 o mul seed0 seed1 => Sys2Proof.Machine.execH32 o mul seed0 seed1 s
  | .weak32 w x y z a b => Sys2Proof.Machine.execWeak32 w x y z a b s
  | .weak32s o a b => Sys2Proof.Machine.execWeak32s o a b s
  | .huo x y mul r => Sys2Proof.Machine.execHuo x y mul r s
  | .startAccept => Sys2Proof.Machine.execStartAccept s
  | .runTier => Sys2Proof.Machine.execRunTier s
  | .naInit => Sys2Proof.Machine.execNaInit s
  | .naBlock => Sys2Proof.Machine.execNaBlock s
  | .naFinal => Sys2Proof.Machine.execNaFinal s
  | .uoInit => Sys2Proof.Machine.execUoInit s
  | .uoBlock => Sys2Proof.Machine.execUoBlock s
  | .uoFinal => Sys2Proof.Machine.execUoFinal s

end Sys2Proof.Machine
end

