-- ==== Sys2Proof/Machine/HostPort.lean ====
section
/-! DEFINITION. What the host can do to the core (spec/10_state.md R27 to R29, R36; spec/30_encoding.md R88,
R89) and to its own memory. -/

namespace Sys2Proof.Machine

/-- An operand write is the beginning of a use of the instance, or goes on with one (R260). -/
def beginUse (s : State) : State := { s with use := .operands }

/-- A `START` that is not ignored is a use too (notes/assumptions/22.md). -/
def useCommand (s : State) : State := { s with use := if startIgnored s then s.use else .command }

/-- The read of the digest of the use's command ends the use (R260). -/
def endUse (s : State) : State := { s with use := if s.use = .command then .free else s.use }

/-- Another agent takes its turn on the interface registers: refused in the middle of an agent's use
(spec/93_implementation_defined.md U18), and otherwise no more than a change of turn, since the core has no owner
(R260, notes/assumptions/22.md). -/
def agentTurn (n : Nat) (s : State) : Host.Outcome State Fault Refusal :=
  if n ≠ s.agent ∧ s.use ≠ .free then .refused .sharedWithoutAgreement else .next { s with agent := n }

/-- A host write (R27, R28): operand registers only while `BUSY=0`, `CR3` only through bit 0, `CR4` never. -/
def hostWrite (r : CReg) (v : U64) (s : State) : Host.Outcome State Fault Refusal :=
  match r with
  | .cr0 => .next (if s.busy then s else beginUse { s with base := v, baseWritten := true })
  | .cr1 => .next (if s.busy then s else beginUse { s with offset := v, offsetWritten := true })
  | .cr2 => .next (if s.busy then s else beginUse { s with length := v, lengthWritten := true })
  | .cr3 => if v.getLsbD 0 then exec .startAccept (useCommand s) else .next s
  | .cr4 => .next s

/-- What a read of an interface register returns; `DIGEST` has no value while `DONE=0` (R29). -/
def regValue (r : CReg) (s : State) : Option U64 :=
  match r with
  | .cr0 => some s.base
  | .cr1 => some s.offset
  | .cr2 => some s.length
  | .cr3 => some ((readCtrl s).setWidth 64)
  | .cr4 => if s.done then some s.digest else none

/-- What was read goes to `observed` (notes/assumptions/17.md). -/
def observe (r : CReg) (v : U64) (s : State) : State := { s with observed := s.observed ++ [(r, v)] }

/-- A host read (R36): it changes nothing of the core. -/
def hostRead (r : CReg) (s : State) : Host.Outcome State Fault Refusal :=
  match regValue r s with
  | some v => .next (if r = .cr4 then endUse (observe r v s) else observe r v s)
  | none => .refused .digestNotReadable

/-- A store to memory by the host or on its behalf (spec/20_memory.md R64). A store that changes a window byte
while `BUSY=1` is outside the contract (R60). -/
def hostStore (a : Addr) (b : Byte) (s : State) : Host.Outcome State Fault Refusal :=
  if s.busy && inWindow s a && decide (memLookup s.mem a.toNat ≠ some b) then .refused .windowChanged
  else .next { s with mem := memStore s.mem a.toNat b }

/-- The one step the sequencer enables, as the label of spec/30_encoding.md R85 (R30): none in `IDLE`, none
after a MemFault (R221). -/
def enabledStep (s : State) : Option Instr :=
  if s.memFault then none
  else
    match s.phase, s.tier with
    | .init, _ => some .runTier
    | .block, .na => some .naBlock
    | .block, .uo => some .uoBlock
    | .final, .na => some .naFinal
    | .final, .uo => some .uoFinal
    | _, _ => none

/-- One turn of the core: its enabled step, or nothing where none is enabled (R30, R231). -/
def coreTurn (s : State) : Host.Outcome State Fault Refusal :=
  match enabledStep s with
  | some i => exec i s
  | none => .next s

/-- `wait` (R89): read `CR3` until `DONE=1`; "the core's steps happen here". After a MemFault it never returns
(R221). `rest` is what stands behind it. DESIGN CHOICE (notes/assumptions/17.md): how many reads of `CR3` a `wait`
makes is open (R258), so none of them is written to `observed`, and a `wait` that finds `DONE=1` is one step. -/
def hostWait (rest : List Event) (s : State) : Host.Outcome State Fault Refusal :=
  if s.done then .next { s with agenda := rest }
  else if s.memFault then .fault .memFault
  else coreTurn s

/-- A host action at the head of the agenda, `rest` behind it. -/
def hostAct (h : HostAction) (rest : List Event) (s : State) : Host.Outcome State Fault Refusal :=
  match h with
  | .write r v => hostWrite r v { s with agenda := rest }
  | .read r => hostRead r { s with agenda := rest }
  | .wait => hostWait rest s
  | .store a b => hostStore a b { s with agenda := rest }
  | .reset => .next (resetCore { s with agenda := rest })

/-- `hash64 base, offset, length` as host actions (R89). -/
def hash64Program (base offset : Addr) (length : Len) : List Event :=
  [.host (.write .cr0 base), .host (.write .cr1 offset), .host (.write .cr2 length), .host (.write .cr3 1),
    .host .wait, .host (.read .cr4)]

/-- The pseudo-command `hash64v view` (R88), a view being a base address and a byte count. -/
def hash64vProgram (base : Addr) (length : Len) : List Event := hash64Program base 0 length

end Sys2Proof.Machine
end

