-- ==== Sys2Proof/Machine/Sequencer.lean ====
section
/-! DEFINITION. One step of the whole machine, and how a label word is placed to run next
(notes/assumptions/12.md, 19.md). -/

namespace Sys2Proof.Machine

/-- A label word on the model's label port: the operation its bytes decode to. -/
def runLabel (bytes : List Byte) (s : State) : Host.Outcome State Fault Refusal :=
  match decode bytes with
  | .ok (i, _) => exec i s
  | .error e => .refused (.badLabel e)

/-- One step: the next event of the agenda; with none left the core's own turn, which after a MemFault is stuck
(spec/60_exceptions.md R221). -/
def nextStep (s : State) : Host.Outcome State Fault Refusal :=
  match s.agenda with
  | [] => if s.memFault then .fault .memFault else coreTurn s
  | .core :: rest => coreTurn { s with agenda := rest }
  | .label bytes :: rest => runLabel bytes { s with agenda := rest }
  | .host h :: rest => hostAct h rest s
  | .agent n :: rest => agentTurn n { s with agenda := rest }

/-- A command in progress at a phase and tier: the selection that stands in a fetch's place (R30). -/
def selectPhase (p : Phase) (t : Tier) (s : State) : State :=
  { s with phase := p, tier := t, busy := true, done := false, memFault := false }

/-- A latched length of at least `n`, so that an operand lies in the window. -/
def openWindow (n : Nat) (s : State) : State :=
  { s with
    phase := .init, busy := true, done := false, memFault := false
    len := if s.len.toNat < n then BitVec.ofNat 64 n else s.len }

/-- A latched length and tier that select a routine (spec/30_encoding.md R83, R84). -/
def selectLength (n : Len) (s : State) : State :=
  { s with
    phase := .init, busy := true, done := false, memFault := false, len := n, tier := dispatch n
    endOff := if streams n then blockLimit n else s.endOff }

/-- Ready to accept a `START`: idle, all three operands written (R101, R252). -/
def readyToStart (s : State) : State :=
  { s with
    phase := .idle, busy := false, memFault := false
    baseWritten := true, offsetWritten := true, lengthWritten := true }

/-- What selects an operation: the phase, tier, length or operand readiness its rule names. -/
def selectFor (i : Instr) (s : State) : State :=
  match i with
  | .hash64 => readyToStart s
  | .startAccept => readyToStart s
  | .hl0to16 => selectLength 0 s
  | .hl17to32 => selectLength 17 s
  | .hl33to64 => selectLength 33 s
  | .hl65to96 => selectLength 65 s
  | .h64na => selectLength 97 s
  | .h64uo => selectLength 257 s
  | .hl0 => selectLength 0 s
  | .hl1to3 => selectLength 1 s
  | .hl4to7 => selectLength 4 s
  | .hl8to16 => selectLength 8 s
  | .fetch8 o => openWindow (o.toNat + 1) s
  | .fetch32 o => openWindow (o.toNat + 4) s
  | .fetch64 o => openWindow (o.toNat + 8) s
  | .h32 o _ _ _ => openWindow (o.toNat + 32) s
  | .weak32s o _ _ => openWindow (o.toNat + 32) s
  | .rotr64 _ _ => s
  | .shiftmix _ => s
  | .hashlen16 _ _ _ => s
  | .weak32 _ _ _ _ _ _ => s
  | .huo _ _ _ _ => s
  | .runTier => selectPhase .init s.tier s
  | .naInit => selectPhase .init .na s
  | .naBlock => selectPhase .block .na s
  | .naFinal => selectPhase .final .na s
  | .uoInit => selectPhase .init .uo s
  | .uoBlock => selectPhase .block .uo s
  | .uoFinal => selectPhase .final .uo s

/-- The bytes of a table word at the head of the agenda, with the selection the operation needs. -/
def placeWord (nbits w : Nat) (s : State) : State :=
  match decodeTableWord nbits w with
  | some i => { selectFor i s with agenda := .label (tableBytes nbits w) :: s.agenda }
  | none => { s with agenda := .label (tableBytes nbits w) :: s.agenda }

end Sys2Proof.Machine
end

