-- ==== Sys2Proof/Machine/Reference.lean ====
section
/-! DEFINITION. `Hash64(B)` as a function of a list of bytes (spec/40_command_dispatch.md R100, R106), with no
state, no memory and no sequencer: what the command's digest is compared with. It shares the stages and register
updates with the machine; the reads, the loop and the dispatch are its own. -/

namespace Sys2Proof.Machine

/-- The `size` bytes at offset `i` of a byte sequence, little-endian. -/
def wordOf (B : List Byte) (i size : Nat) : U64 := leU64 ((B.drop i).take size)

/-- The words of the 32-byte window at offset `o`. -/
def quadOf (B : List Byte) (o : Nat) : Quad :=
  ⟨wordOf B o 8, wordOf B (o + 8) 8, wordOf B (o + 16) 8, wordOf B (o + 24) 8⟩

/-- The words of the 64-byte block at offset `p`. -/
def blockOf (B : List Byte) (p : Nat) : Block := ⟨quadOf B p, quadOf B (p + 32)⟩

/-- A register update over `k` blocks from offset `p` on. -/
def absorbBlocks (mix : Block → Work → Work) (B : List Byte) : Nat → Nat → Work → Work
  | 0, _, w => w
  | k + 1, p, w => absorbBlocks mix B k (p + 64) (mix (blockOf B p) w)

/-- The working registers an NA command has after its last block (R185). -/
def naAbsorbed (B : List Byte) : Work :=
  absorbBlocks naMix B ((B.length - 1) / 64) 0 (naSeed (wordOf B 0 8) Work.zero)

/-- The working registers a UO command has after its last block (R204). -/
def uoAbsorbed (B : List Byte) : Work := absorbBlocks uoMix B ((B.length - 1) / 64) 0 uoSeed

/-- `Hash64(B)` (R100). -/
def hashBytes (B : List Byte) : U64 :=
  let size := B.length
  let n : Len := BitVec.ofNat 64 size
  let tail : U64 := BitVec.ofNat 64 ((size - 1) % 64)
  if size = 0 then k2
  else if size ≤ 3 then hl1to3Mix n (wordOf B 0 1) (wordOf B (size / 2) 1) (wordOf B (size - 1) 1)
  else if size ≤ 7 then hl4to7Mix n (wordOf B 0 4) (wordOf B (size - 4) 4)
  else if size ≤ 16 then hl8to16Mix n (wordOf B 0 8) (wordOf B (size - 8) 8)
  else if size ≤ 32 then
    hl17to32Mix n (wordOf B 0 8) (wordOf B 8 8) (wordOf B (size - 8) 8) (wordOf B (size - 16) 8)
  else if size ≤ 64 then hl33to64Mix n (quadOf B 0) (quadOf B (size - 32))
  else if size ≤ 96 then hl65to96Mix n (quadOf B 0) (quadOf B 32) (quadOf B (size - 32))
  else if size ≤ 256 then naDigest (naFinalMix tail (blockOf B (size - 64)) (naAbsorbed B))
  else uoDigest (uoFinalMix tail (blockOf B (size - 64)) (uoAbsorbed B))

end Sys2Proof.Machine
end

