-- ==== Sys2Proof/Safety.lean ====
section
/-! DEFINITION. What a safe run is, in the terms the statements use: the invariant every step keeps, the
contract of a launch, and what it is for memory to hold a window. -/

namespace Sys2Proof.Machine

/-- The memory from address `a` on holds the bytes `B` (addresses modulo 2^64, R53). -/
abbrev WindowHolds (m : Memory) (a : Addr) (B : List Byte) : Prop :=
  ∀ k < B.length, memLookup m (a + BitVec.ofNat 64 k).toNat = B[k]?

/-- A command is in progress on a window that holds `B`: its steps can read every byte. -/
structure Running (s : State) (B : List Byte) : Prop where
  running : s.phase ≠ .idle
  noFault : s.memFault = false
  size : s.len.toNat = B.length
  holds : WindowHolds s.mem s.startAddr B

/-- A launch that meets the host's contract (the table of spec/60_exceptions.md R222, R252), on a core that can
accept it (spec/40_command_dispatch.md R101). -/
structure LaunchReady (s : State) : Prop where
  idle : s.phase = .idle
  noFault : s.memFault = false
  baseWritten : s.baseWritten = true
  offsetWritten : s.offsetWritten = true
  lengthWritten : s.lengthWritten = true
  fits : s.length ≠ 0 → s.base.toNat + s.offset.toNat + s.length.toNat ≤ 2 ^ 64
  noDevice : ∀ d ∈ s.devices, ∀ a, (s.base + s.offset).toNat ≤ a →
    a < (s.base + s.offset).toNat + s.length.toNat → ¬(d.1 ≤ a ∧ a < d.1 + d.2)

/-- `k` steps of the machine, stopping at the first fault or refusal. -/
def runSteps (k : Nat) (s : State) : Host.Outcome State Fault Refusal := Sys2Proof.core.run k s

/-- How many core steps a command of length `n` takes after its acceptance (R109, R258). -/
def commandSteps (n : Nat) : Nat := if n < 97 then 1 else 2 + (n - 1) / 64

/-- The invariant of the machine: the memory is canonical; `BUSY` is exactly "not `IDLE`" and never stands with
`DONE` (R28, R30); a MemFault holds the command (R221); the latches of a running command are those of its length
(R31, R83); `POS` walks the multiples of 64 below `END` and stops there (R32); its window does not wrap (R61). -/
structure MachineInv (s : State) : Prop where
  memCanonical : s.mem.wf = true
  busyIsRunning : s.busy = true ↔ s.phase ≠ .idle
  notBusyAndDone : ¬(s.busy = true ∧ s.done = true)
  faultHoldsCommand : s.memFault = true → s.phase ≠ .idle
  tierOfLength : s.phase ≠ .idle → s.tier = dispatch s.len
  loopIsStreaming : s.phase = .block ∨ s.phase = .final → 97 ≤ s.len.toNat
  endOfLength : s.phase ≠ .idle → 97 ≤ s.len.toNat → s.endOff.toNat = (s.len.toNat - 1) / 64 * 64
  posInLoop : s.phase = .block → s.pos.toNat % 64 = 0 ∧ s.pos.toNat < s.endOff.toNat
  posAtEnd : s.phase = .final → s.pos = s.endOff
  windowFits : s.phase ≠ .idle → s.len ≠ 0 → s.startAddr.toNat + s.len.toNat ≤ 2 ^ 64

end Sys2Proof.Machine
end

