-- ==== Sys2Proof/Certificates/Slice0/Obligations.lean ====
section
/-! DEFINITION. The statements for the provers. A formula here is written from the spec's pseudocode over the bytes
of the window, with `BitVec.rotateRight` for the spec's rotate, not with the model's own stage functions. Formulas
that the spec marks as general knowledge (notes/assumptions/2.md) make their statements derived ones. -/

namespace Sys2Proof.Machine

/-- The little-endian sum of R53 over `size` bytes of a byte sequence from offset `i` on. -/
def leSum (B : List Byte) (i size : Nat) : Nat :=
  ((List.range size).map fun k => (B.getD (i + k) 0).toNat * 2 ^ (8 * k)).sum

/-- Some byte of `size` bytes from window offset `i` on is refused by the memory. -/
abbrev RefusedAt (s : State) (i : Len) (size : Nat) : Prop :=
  ∃ k < size, memLookup s.mem (s.startAddr + i + BitVec.ofNat 64 k).toNat = none

/-- The constants as the table of R26 prints them. -/
abbrev specK0 : U64 := 0xc3a5c85c97cb3127
abbrev specK1 : U64 := 0xb492b66fbe98f273
abbrev specK2 : U64 := 0x9ae16a3b2f90404f

/-- The two-round mixer as R125's equivalent form. -/
abbrev specHash16 (u v mul : U64) : U64 :=
  let e := (u ^^^ v) * mul
  let g := (v ^^^ (e ^^^ (e >>> 47))) * mul
  (g ^^^ (g >>> 47)) * mul

/-- The 32-byte window mixer of R160 on its four words in address order. -/
abbrev specH32 (w0 w1 w2 w3 mul seed0 seed1 : U64) : U64 :=
  let u := (w0 * specK1 + w1).rotateRight 43 + (w3 * mul).rotateRight 30 + w2 * specK2 + seed0
  let v := w0 * specK1 + (w1 + specK2).rotateRight 18 + w3 * mul + seed1
  let e := (u ^^^ v) * mul
  let g := (v ^^^ (e ^^^ (e >>> 47))) * mul
  g ^^^ (g >>> 47)

/-- The same on the window at offset `o` of a byte sequence. -/
abbrev specH32At (B : List Byte) (o : Nat) (mul seed0 seed1 : U64) : U64 :=
  specH32 (wordOf B o 8) (wordOf B (o + 8) 8) (wordOf B (o + 16) 8) (wordOf B (o + 24) 8) mul seed0 seed1

/-- The first component of the weak pair (R180): a plain sum. -/
abbrev specWeak1 (w x y z a : U64) : U64 := a + w + x + y + z

/-- The second component of the weak pair (R180). -/
abbrev specWeak2 (w x y z a b : U64) : U64 :=
  (b + a + w + z).rotateRight 21 + (a + w + x + y).rotateRight 44 + a + w

/-- The avalanche `H` of R200. -/
abbrev specHuo (x y mul : U64) (r : Nat) : U64 :=
  let e := (x ^^^ y) * mul
  ((y ^^^ (e ^^^ (e >>> 47))) * mul).rotateRight r * mul

end Sys2Proof.Machine

open Sys2Proof Sys2Proof.Machine

/-! ### Encoding -/

/-- Decoding the bytes of any well-formed operation, whatever follows them, gives the operation back. The labels
are the table of R85; the operand layout is the model's (notes/assumptions/5.md). -/
def Obligations.DecodeOfEncodeIsTheInstruction : Prop :=
  ∀ (i : Instr) (rest : List Byte), i.wellFormed = true → decode (encode i ++ rest) = .ok (i, rest)

/-- Whatever decodes is a well-formed operation whose encoding stood at the front of the bytes
(notes/assumptions/5.md). -/
def Obligations.DecodedBytesAreTheEncoding : Prop :=
  ∀ (bs rest : List Byte) (i : Instr), decode bs = .ok (i, rest) → i.wellFormed = true ∧ bs = encode i ++ rest

/-- A few label words of spec/opcode_table.json decode to the operation of their row, and labels outside it name nothing.
The OPIDs are the spec's; the operands of `FETCH64` and `HUO`, and that the zeros of a bare label word stand for offset 0,
words 0 and the count 30, are the model's operand layout (notes/assumptions/5.md). -/
def Obligations.TableWordsDecodeToTheirRows : Prop :=
  decodeTableWord 8 0x00 = some .hash64 ∧ decodeTableWord 8 0x11 = some .hl17to32 ∧
    decodeTableWord 8 0x1a = some .hl4to7 ∧ decodeTableWord 8 0x22 = some (.fetch64 0) ∧
    decodeTableWord 8 0x29 = some (.huo 0 0 0 .r30) ∧ decodeTableWord 8 0x31 = some .runTier ∧
    decodeTableWord 8 0x36 = some .naFinal ∧ decodeTableWord 8 0x39 = some .uoBlock ∧
    decodeTableWord 8 0x16 = none ∧ decodeTableWord 8 0x32 = none ∧ decodeTableWord 8 0xff = none

/-! ### The step and the invariant -/

/-- A label word at the head of the agenda: the step is `exec` of the operation its bytes decode to, the word
taken off the agenda (the label port is the model's, notes/assumptions/5.md). -/
def Obligations.StepRunsTheDecodedLabel : Prop :=
  ∀ (s : State) (bytes after : List Byte) (rest : List Event) (i : Instr),
    s.agenda = .label bytes :: rest → decode bytes = .ok (i, after) →
      step s = exec i { s with agenda := rest }

/-- A core turn (nothing pending, or a core event at the head, then taken off) runs exactly the step that phase and
tier enable, and none in `IDLE`. -/
def Obligations.CoreTurnRunsTheEnabledStep : Prop :=
  ∀ s u : State,
    (s.agenda = [] ∧ u = s) ∨ (∃ rest, s.agenda = .core :: rest ∧ u = { s with agenda := rest }) →
    s.memFault = false →
      (s.phase = .idle → step s = .next u) ∧
      (s.phase = .init → step s = exec .runTier u) ∧
      (s.phase = .block → s.tier = .na → step s = exec .naBlock u) ∧
      (s.phase = .block → s.tier = .uo → step s = exec .uoBlock u) ∧
      (s.phase = .final → s.tier = .na → step s = exec .naFinal u) ∧
      (s.phase = .final → s.tier = .uo → step s = exec .uoFinal u)

/-- The invariant holds after reset. -/
def Obligations.ResetMeetsTheInvariant : Prop := MachineInv State.reset

/-- Every step keeps the invariant, from any state that meets it: canonical memory, `BUSY` exactly while not `IDLE`
and never with `DONE`, `TIER` and `END` those of the latched length, `POS` on the multiples of 64 up to `END`. -/
def Obligations.StepKeepsTheInvariant : Prop := ∀ s t : State, MachineInv s → step s = .next t → MachineInv t

/-- What reset leaves where the spec gives a value, for the state after reset and for the host's reset in any state:
`IDLE`, both flags 0, no recorded fault, operands to be written again; memory is not touched. That it ends
any agent's use of the instance is the model's choice (notes/assumptions/22.md). -/
def Obligations.ResetLeavesIdleWithFlagsClear : Prop :=
  (State.reset.phase = .idle ∧ readCtrl State.reset = 0 ∧ State.reset.memFault = false) ∧
    ∀ (s : State) (rest : List Event), s.agenda = .host .reset :: rest →
      ∃ t, step s = .next t ∧ t.phase = .idle ∧ readCtrl t = 0 ∧ t.memFault = false ∧
        t.baseWritten = false ∧ t.offsetWritten = false ∧ t.lengthWritten = false ∧
        t.mem = s.mem ∧ t.devices = s.devices ∧ t.observed = s.observed ∧ t.agenda = rest ∧ t.agent = s.agent ∧ t.use = .free

/-- No step but a host store changes memory, no step but a host read changes the list of what the host has read, and
what a read of any register but `CR4` returns does not depend on `DIGEST`. The host store is the model's form of the
spec's stores to memory (notes/assumptions/13.md), the list is the model's choice (notes/assumptions/17.md). -/
def Obligations.CoreNeverWritesMemory : Prop :=
  (∀ s t : State, step s = .next t → (∀ a b rest, s.agenda ≠ .host (.store a b) :: rest) → t.mem = s.mem) ∧
  (∀ s t : State, step s = .next t → (∀ r rest, s.agenda ≠ .host (.read r) :: rest) →
    t.observed = s.observed) ∧
  (∀ (s : State) (r : CReg) (d : U64), r ≠ .cr4 → regValue r { s with digest := d } = regValue r s)

/-- A host store writes one byte and nothing else, keeping the canonical form; one that changes a byte of the window
of a running command is refused, one that leaves the byte as it is is not (the store is the model's form of R64 and
R60, notes/assumptions/13.md). -/
def Obligations.HostStoreWritesOneByte : Prop :=
  ∀ (s : State) (a : Addr) (b : Byte) (rest : List Event),
    s.mem.wf = true → s.agenda = .host (.store a b) :: rest →
      if s.busy = true ∧ (a - s.startAddr).toNat < s.len.toNat ∧ memLookup s.mem a.toNat ≠ some b then
        step s = .refused .windowChanged
      else
        ∃ m : Memory, step s = .next { s with agenda := rest, mem := m } ∧ m.wf = true ∧
          ∀ c, memLookup m c = if c = a.toNat then some b else memLookup s.mem c

/-! ### Memory and the fetches -/

/-- `MemRead` of 1, 4 or 8 bytes is the little-endian sum of the bytes held, and is refused at an address the memory
does not admit. -/
def Obligations.MemReadIsTheLittleEndianSum : Prop :=
  ∀ (m : Memory) (a : Addr) (n : Nat), n = 1 ∨ n = 4 ∨ n = 8 →
    (∀ B : List Byte, B.length = n → WindowHolds m a B →
      memRead m a n = .ok (BitVec.ofNat 64 (leSum B 0 n))) ∧
    ((∃ k < n, memLookup m (a + BitVec.ofNat 64 k).toNat = none) →
      ∃ k < n, memRead m a n = .error (a + BitVec.ofNat 64 k) ∧
        memLookup m (a + BitVec.ofNat 64 k).toNat = none)

/-- Each fetch stage, at any alignment inside the window, leaves the zero-extended little-endian value and changes
nothing else (the result's place is the model's, notes/assumptions/5.md). -/
def Obligations.FetchStagesReadTheWindow : Prop :=
  ∀ (s : State) (B : List Byte) (i : Len), Running s B →
    (i.toNat + 1 ≤ B.length →
      exec (.fetch8 i) s = .next { s with stage := .word (BitVec.ofNat 64 (leSum B i.toNat 1)) }) ∧
    (i.toNat + 4 ≤ B.length →
      exec (.fetch32 i) s = .next { s with stage := .word (BitVec.ofNat 64 (leSum B i.toNat 4)) }) ∧
    (i.toNat + 8 ≤ B.length →
      exec (.fetch64 i) s = .next { s with stage := .word (BitVec.ofNat 64 (leSum B i.toNat 8)) })

/-- A fetching stage whose window bytes the memory does not all admit takes no effect but the recorded MemFault. -/
def Obligations.FetchingStagesTrapOnARefusedByte : Prop :=
  ∀ (s : State) (i : Len), s.phase ≠ .idle → s.memFault = false →
    (i.toNat + 1 ≤ s.len.toNat → RefusedAt s i 1 → exec (.fetch8 i) s = .next { s with memFault := true }) ∧
    (i.toNat + 4 ≤ s.len.toNat → RefusedAt s i 4 → exec (.fetch32 i) s = .next { s with memFault := true }) ∧
    (i.toNat + 8 ≤ s.len.toNat → RefusedAt s i 8 → exec (.fetch64 i) s = .next { s with memFault := true }) ∧
    (i.toNat + 32 ≤ s.len.toNat → RefusedAt s i 32 → ∀ mul seed0 seed1,
      exec (.h32 i mul seed0 seed1) s = .next { s with memFault := true }) ∧
    (i.toNat + 32 ≤ s.len.toNat → RefusedAt s i 32 → ∀ a b,
      exec (.weak32s i a b) s = .next { s with memFault := true })

/-- A fetching stage whose operand is no offset of the window is refused, and so is any with no command in progress
or a MemFault recorded (the model's guards, notes/assumptions/7.md). -/
def Obligations.FetchingStagesKeepToTheWindow : Prop :=
  ∀ (s : State) (i : Len),
    (s.phase = .idle ∨ s.memFault = true →
      exec (.fetch8 i) s = .refused .notEnabled ∧ exec (.fetch32 i) s = .refused .notEnabled ∧
      exec (.fetch64 i) s = .refused .notEnabled ∧
      (∀ mul seed0 seed1, exec (.h32 i mul seed0 seed1) s = .refused .notEnabled) ∧
      (∀ a b, exec (.weak32s i a b) s = .refused .notEnabled)) ∧
    (s.phase ≠ .idle → s.memFault = false →
      (s.len.toNat < i.toNat + 1 → exec (.fetch8 i) s = .refused .offsetOutsideWindow) ∧
      (s.len.toNat < i.toNat + 4 → exec (.fetch32 i) s = .refused .offsetOutsideWindow) ∧
      (s.len.toNat < i.toNat + 8 → exec (.fetch64 i) s = .refused .offsetOutsideWindow) ∧
      (s.len.toNat < i.toNat + 32 →
        (∀ mul seed0 seed1, exec (.h32 i mul seed0 seed1) s = .refused .offsetOutsideWindow) ∧
        (∀ a b, exec (.weak32s i a b) s = .refused .offsetOutsideWindow)))

/-! ### The arithmetic stages (the place of a label's result is the model's, notes/assumptions/5.md) -/

/-- `ROTR64`: bit `k` of the result is bit `(k + r) mod 64` of the operand, for every count 0 to 63, and nothing else
changes; the direction is the spec's decision D21 (general knowledge), the result's place the model's choice
(notes/assumptions/5.md). That a count of 64 or more is refused is the model's guard, the spec gives it neither a value
nor a refusal (notes/assumptions/7.md). -/
def Obligations.Rotr64MovesEachBitRight : Prop :=
  ∀ (s : State) (v : U64) (r : Byte),
    (r.toNat < 64 → ∃ w : U64, exec (.rotr64 v r) s = .next { s with stage := .word w } ∧
      ∀ k < 64, w.getLsbD k = v.getLsbD ((k + r.toNat) % 64)) ∧
    (64 ≤ r.toNat → exec (.rotr64 v r) s = .refused .rotateCountOutsideRange)

/-- `SHIFTMIX`: bit `k` of the result is bit `k` xor bit `k + 47` of the operand, and nothing else changes. The shift
count is the spec's decision D22 (general knowledge). -/
def Obligations.ShiftmixXorsBit47Up : Prop :=
  ∀ (s : State) (v : U64), ∃ w : U64, exec (.shiftmix v) s = .next { s with stage := .word w } ∧
    ∀ k < 64, w.getLsbD k = (v.getLsbD k ^^ v.getLsbD (k + 47))

/-- `HASHLEN16` is the two-round mixer of the equivalent form, and nothing else changes; equal words make the first
round vanish. The body is the spec's decision D23 (general knowledge). -/
def Obligations.Hashlen16IsTheTwoRoundMixer : Prop :=
  ∀ (s : State) (u v mul : U64),
    exec (.hashlen16 u v mul) s = .next { s with stage := .word (specHash16 u v mul) } ∧
    exec (.hashlen16 v v mul) s =
      .next { s with stage := .word (((v * mul) ^^^ ((v * mul) >>> 47)) * mul) }

/-- `WEAK32`: the first component is the plain sum, the second the sum of two rotates; nothing else changes. The
rotate direction is the spec's decision D21 (general knowledge). -/
def Obligations.Weak32IsTheSumAndTheRotates : Prop :=
  ∀ (s : State) (w x y z a b : U64),
    exec (.weak32 w x y z a b) s =
      .next { s with stage := .pair (specWeak1 w x y z a) (specWeak2 w x y z a b) }

/-- `WEAK32S` is the weak pair of the four words of its window, in address order; nothing else changes. The rotate
direction is the spec's decision D21 (general knowledge). -/
def Obligations.Weak32sIsTheWeakPairOfItsWindow : Prop :=
  ∀ (s : State) (B : List Byte) (o : Len) (a b : U64), Running s B → o.toNat + 32 ≤ B.length →
    let w := wordOf B o.toNat 8
    let x := wordOf B (o.toNat + 8) 8
    let y := wordOf B (o.toNat + 16) 8
    let z := wordOf B (o.toNat + 24) 8
    exec (.weak32s o a b) s = .next { s with stage := .pair (specWeak1 w x y z a) (specWeak2 w x y z a b) }

/-- `HUO` for both rotate counts; nothing else changes. The form is the spec's decision D33 (general knowledge). -/
def Obligations.HuoIsTheRotatedAvalanche : Prop :=
  ∀ (s : State) (x y mul : U64),
    exec (.huo x y mul .r30) s = .next { s with stage := .word (specHuo x y mul 30) } ∧
    exec (.huo x y mul .r31) s = .next { s with stage := .word (specHuo x y mul 31) }

/-- `H32` on the window at any offset, with any multiplier and seeds; nothing else changes. The multipliers are the
spec's decision D27 (general knowledge). -/
def Obligations.H32MixesItsWindow : Prop :=
  ∀ (s : State) (B : List Byte) (o : Len) (mul seed0 seed1 : U64), Running s B → o.toNat + 32 ≤ B.length →
    exec (.h32 o mul seed0 seed1) s = .next { s with stage := .word (specH32At B o.toNat mul seed0 seed1) }

/-! ### The routines of tiers 0 to 3, under their own labels (notes/assumptions/6.md) -/

/-- `HL0` gives `K2`, reads nothing and changes nothing else, in any state with a running command of length 0,
whatever `base` and `offset` are. That the label leaves its value in the field `stage` and does not complete the command
is the model's choice (notes/assumptions/5.md, 6.md), and so is the guard that a command must be running
(notes/assumptions/7.md). -/
def Obligations.Hl0GivesK2 : Prop :=
  ∀ s : State, s.phase ≠ .idle → s.memFault = false → s.len = 0 →
    exec .hl0 s = .next { s with stage := .word 0x9ae16a3b2f90404f }

/-- `HL1TO3` on its first, middle and last byte. The packing is the spec's decision D24 (general knowledge). -/
def Obligations.Hl1to3MixesThreeBytes : Prop :=
  ∀ (s : State) (B : List Byte), Running s B → 1 ≤ B.length → B.length ≤ 3 →
    let y := wordOf B 0 1 + (wordOf B (B.length / 2) 1 <<< 8)
    let z := s.len + (wordOf B (B.length - 1) 1 <<< 2)
    let g := (y * specK2) ^^^ (z * specK0)
    exec .hl1to3 s = .next { s with stage := .word ((g ^^^ (g >>> 47)) * specK2) }

/-- `HL4TO7` on its two 4-byte words. The left component is the spec's decision D25 (general knowledge). -/
def Obligations.Hl4to7MixesTwoWords : Prop :=
  ∀ (s : State) (B : List Byte), Running s B → 4 ≤ B.length → B.length ≤ 7 →
    let d := specHash16 (s.len + (wordOf B 0 4 <<< 3)) (wordOf B (B.length - 4) 4) (specK2 + 2 * s.len)
    exec .hl4to7 s = .next { s with stage := .word d }

/-- `HL8TO16` on its first and last word. The pre-mixing is the spec's decision D26 (general knowledge). -/
def Obligations.Hl8to16MixesTwoWords : Prop :=
  ∀ (s : State) (B : List Byte), Running s B → 8 ≤ B.length → B.length ≤ 16 →
    let mul := specK2 + 2 * s.len
    let a := wordOf B 0 8 + specK2
    let b := wordOf B (B.length - 8) 8
    let d := specHash16 (b.rotateRight 37 * mul + a) ((a.rotateRight 25 + b) * mul) mul
    exec .hl8to16 s = .next { s with stage := .word d }

/-- `HL0TO16` gives, for every length 0 to 16, the value of the reference function, that of the sub-case its length
picks: `HL8TO16` from 8, `HL4TO7` from 4, `HL1TO3` from 1, `HL0` at 0. -/
def Obligations.Hl0to16PicksTheSubCase : Prop :=
  ∀ (s : State) (B : List Byte), Running s B → B.length ≤ 16 →
    exec .hl0to16 s = .next { s with stage := .word (hashBytes B) } ∧
    exec .hl0to16 s =
      if 8 ≤ B.length then exec .hl8to16 s
      else if 4 ≤ B.length then exec .hl4to7 s
      else if 1 ≤ B.length then exec .hl1to3 s
      else exec .hl0 s

/-- `HL17TO32` on its first, second, last and second-to-last words. The multipliers are the spec's decision D27
(general knowledge). -/
def Obligations.Hl17to32MixesFourWords : Prop :=
  ∀ (s : State) (B : List Byte), Running s B → 17 ≤ B.length → B.length ≤ 32 →
    let mul := specK2 + 2 * s.len
    let a := wordOf B 0 8 * specK1
    let b := wordOf B 8 8
    let c := wordOf B (B.length - 8) 8 * mul
    let d := wordOf B (B.length - 16) 8 * specK2
    let e := specHash16 ((a + b).rotateRight 43 + c.rotateRight 30 + d) (a + (b + specK2).rotateRight 18 + c) mul
    exec .hl17to32 s = .next { s with stage := .word e }

/-- `HL33TO64` on its first and last windows. The combination is the spec's decision D28 (general knowledge). -/
def Obligations.Hl33to64CombinesTwoWindows : Prop :=
  ∀ (s : State) (B : List Byte), Running s B → 33 ≤ B.length → B.length ≤ 64 →
    let mul0 : U64 := 0x9ae16a3b2f904031
    let mul1 := mul0 + 2 * s.len
    let h0 := specH32At B 0 mul0 0 0
    let h1 := specH32At B (B.length - 32) mul1 0 0
    exec .hl33to64 s = .next { s with stage := .word ((h1 * mul1 + h0) * mul1) }

/-- `HL65TO96` on its first, middle and last windows, the first two results seeding the third. The details are the
spec's decision D29 (general knowledge). -/
def Obligations.Hl65to96ChainsThreeWindows : Prop :=
  ∀ (s : State) (B : List Byte), Running s B → 65 ≤ B.length → B.length ≤ 96 →
    let mul0 : U64 := 0x9ae16a3b2f903fdd
    let mul1 := mul0 + 2 * s.len
    let h0 := specH32At B 0 mul0 0 0
    let h1 := specH32At B 32 mul1 0 0
    let h2 := specH32At B (B.length - 32) mul1 h0 h1
    exec .hl65to96 s = .next { s with stage := .word ((h2 * 9 + (h0 >>> 17) + (h1 >>> 21)) * mul1) }

/-- Every routine of tiers 1 to 3 and every reading sub-case of tier 0 reads every byte of its window: one refused
window byte and the routine takes no effect but the recorded MemFault. -/
def Obligations.RoutinesTrapOnAnyRefusedByte : Prop :=
  ∀ s : State, s.phase ≠ .idle → s.memFault = false → RefusedAt s 0 s.len.toNat →
    (s.len.toNat ≤ 16 → exec .hl0to16 s = .next { s with memFault := true }) ∧
    (s.len.toNat ≤ 3 → exec .hl1to3 s = .next { s with memFault := true }) ∧
    (4 ≤ s.len.toNat ∧ s.len.toNat ≤ 7 → exec .hl4to7 s = .next { s with memFault := true }) ∧
    (8 ≤ s.len.toNat ∧ s.len.toNat ≤ 16 → exec .hl8to16 s = .next { s with memFault := true }) ∧
    (17 ≤ s.len.toNat ∧ s.len.toNat ≤ 32 → exec .hl17to32 s = .next { s with memFault := true }) ∧
    (33 ≤ s.len.toNat ∧ s.len.toNat ≤ 64 → exec .hl33to64 s = .next { s with memFault := true }) ∧
    (65 ≤ s.len.toNat ∧ s.len.toNat ≤ 96 → exec .hl65to96 s = .next { s with memFault := true })

/-- A routine's label outside its length range is refused, and any of them with no command in progress or a MemFault
recorded (the model's guards, notes/assumptions/7.md). -/
def Obligations.RoutinesKeepToTheirLengths : Prop :=
  ∀ (s : State) (row : Instr × Nat × Nat),
    row ∈ ([(.hl0to16, 0, 16), (.hl17to32, 17, 32), (.hl33to64, 33, 64), (.hl65to96, 65, 96), (.hl0, 0, 0),
      (.hl1to3, 1, 3), (.hl4to7, 4, 7), (.hl8to16, 8, 16)] : List (Instr × Nat × Nat)) →
    (s.phase = .idle ∨ s.memFault = true → exec row.1 s = .refused .notEnabled) ∧
    (s.phase ≠ .idle → s.memFault = false → s.len.toNat < row.2.1 ∨ row.2.2 < s.len.toNat →
      exec row.1 s = .refused .lengthNotSelected)

/-! ### Acceptance and the sequencer steps -/

/-- `START_ACCEPT` of a launch that meets the contract: the latches, the flags, `INIT`; `END` is the loop limit from
length 97 on and open below; nothing else changes. The interface is the spec's decision D6, the contract D16. -/
def Obligations.StartAcceptLatchesTheCommand : Prop :=
  ∀ s : State, LaunchReady s → ∃ (e : Len) (f : Nat),
    exec .startAccept s = .next
      { s with startAddr := s.base + s.offset, len := s.length, tier := dispatch s.length, endOff := e, free := f,
               busy := true, done := false, phase := .init } ∧
    (97 ≤ s.length.toNat → e.toNat = (s.length.toNat - 1) / 64 * 64 ∧ f = s.free)

/-- `Dispatch`: the tier code an accepted command latches, by its length alone, unsigned, inclusive upper bounds. -/
def Obligations.DispatchIsByLengthAlone : Prop :=
  ∀ s : State, LaunchReady s → ∃ t, exec .startAccept s = .next t ∧
    (s.length.toNat ≤ 16 → t.tier.code = 0) ∧
    (16 < s.length.toNat → s.length.toNat ≤ 32 → t.tier.code = 1) ∧
    (32 < s.length.toNat → s.length.toNat ≤ 64 → t.tier.code = 2) ∧
    (64 < s.length.toNat → s.length.toNat ≤ 96 → t.tier.code = 3) ∧
    (96 < s.length.toNat → s.length.toNat ≤ 256 → t.tier.code = 4) ∧
    (256 < s.length.toNat → t.tier.code = 5)

/-- A START while a command runs, or after a MemFault, has no effect at all: not for the step, not for the command,
not for the host's write of `CR3`. -/
def Obligations.StartIsIgnoredWhileBusy : Prop :=
  ∀ s : State, s.phase ≠ .idle ∨ s.memFault = true →
    exec .startAccept s = .next s ∧ exec .hash64 s = .next s ∧
    ∀ (v : U64) (rest : List Event), s.agenda = .host (.write .cr3 v) :: rest →
      step s = .next { s with agenda := rest }

/-- A launch that breaks the host's contract is refused by name: an operand not written since reset, a window
that wraps, a window with a read side effect. R222 gives no order: which breach is named where several are present (in the
order just given) is the model's choice, and so is that an empty window never wraps (DEDUCED), both in
notes/assumptions/9.md. -/
def Obligations.StartRefusesABrokenContract : Prop :=
  ∀ s : State, s.phase = .idle → s.memFault = false →
    let written := s.baseWritten = true ∧ s.offsetWritten = true ∧ s.lengthWritten = true
    let wraps := s.length ≠ 0 ∧ 2 ^ 64 < s.base.toNat + s.offset.toNat + s.length.toNat
    let touches := ∃ d ∈ s.devices, ∃ a, (s.base + s.offset).toNat ≤ a ∧
      a < (s.base + s.offset).toNat + s.length.toNat ∧ d.1 ≤ a ∧ a < d.1 + d.2
    (¬written → exec .startAccept s = .refused .operandsNotWritten ∧
      exec .hash64 s = .refused .operandsNotWritten) ∧
    (written → wraps → exec .startAccept s = .refused .windowWraps ∧ exec .hash64 s = .refused .windowWraps) ∧
    (written → ¬wraps → touches → exec .startAccept s = .refused .windowHasSideEffects ∧
      exec .hash64 s = .refused .windowHasSideEffects)

/-- `RUN_TIER`: for lengths 0 to 96 the whole routine, its value into `DIGEST` with the flags of `Complete`; above,
the seeding step of the tier; nothing else changes. -/
def Obligations.RunTierRunsTheLatchedTier : Prop :=
  ∀ (s : State) (B : List Byte), Running s B → s.phase = .init → s.tier = dispatch s.len →
    (B.length ≤ 96 → exec .runTier s = .next
      { s with digest := hashBytes B, busy := false, done := true, phase := .idle }) ∧
    (96 < B.length → B.length ≤ 256 → exec .runTier s = exec .naInit s) ∧
    (256 < B.length → exec .runTier s = exec .uoInit s)

/-- `NA_INIT` seeds seven registers, two of them constants, and enters the loop at `POS` 0; `U`, `MUL`, the flags and
everything else stay. `Y`, `Z` and the pairs are the spec's decision D30 (general knowledge). -/
def Obligations.NaInitSeedsTheRegisters : Prop :=
  ∀ (s : State) (B : List Byte), Running s B → s.phase = .init → s.tier = .na → 8 ≤ B.length →
    exec .naInit s = .next
      { s with
        work := { s.work with
          x := 0x01529cba0ca458ff + wordOf B 0 8, y := 0x226bb95b4e64b6d4, z := 0x134a747f856d0526
          v1 := 0, v2 := 0, w1 := 0, w2 := 0 }
        pos := 0, phase := .block }

/-- `NA_BLOCK`: the statements of the block update on the 64 bytes at `POS`, the swap of `Z` and `X`, `POS` on by 64,
`FINAL` at `END`; nothing else changes. The expressions are the spec's decision D31 (general knowledge). -/
def Obligations.NaBlockUpdatesTheRegisters : Prop :=
  ∀ (s : State) (B : List Byte), Running s B → s.phase = .block → s.tier = .na →
    s.pos.toNat + 64 ≤ B.length →
    let p := s.pos.toNat
    let w := s.work
    let x := ((w.x + w.y + w.v1 + wordOf B (p + 8) 8).rotateRight 37 * specK1) ^^^ w.w2
    let y := (w.y + w.v2 + wordOf B (p + 48) 8).rotateRight 42 * specK1 + w.v1 + wordOf B (p + 40) 8
    let z := (w.z + w.w1).rotateRight 33 * specK1
    let a := w.v2 * specK1
    let b := x + w.w1
    let c := z + w.w2
    let d := y + wordOf B (p + 16) 8
    let q := quadOf B p
    let r := quadOf B (p + 32)
    exec .naBlock s = .next
      { s with
        work := { w with
          x := z, y := y, z := x
          v1 := specWeak1 q.w0 q.w1 q.w2 q.w3 a, v2 := specWeak2 q.w0 q.w1 q.w2 q.w3 a b
          w1 := specWeak1 r.w0 r.w1 r.w2 r.w3 c, w2 := specWeak2 r.w0 r.w1 r.w2 r.w3 c d }
        pos := s.pos + 64
        phase := if s.pos + 64 = s.endOff then .final else .block }

/-- `NA_FINAL`: the digest from the final pass over the last 64 bytes, with the flags of `Complete`; the working
registers but `U` hold no value after it (a free one, notes/assumptions/4.md); nothing else changes. The details are
the spec's decision D32 (general knowledge). -/
def Obligations.NaFinalCompletesTheCommand : Prop :=
  ∀ (s : State) (B : List Byte), Running s B → s.phase = .final → s.tier = .na → 64 ≤ B.length →
    let p := B.length - 64
    let w := s.work
    let mul := specK1 + ((w.z &&& 0xff) <<< 1)
    let t1 := w.w1 + BitVec.ofNat 64 ((B.length - 1) % 64)
    let v1 := w.v1 + t1
    let w1 := t1 + v1
    let x := ((w.x + w.y + v1 + wordOf B (p + 8) 8).rotateRight 37 * mul) ^^^ (w.w2 * 9)
    let y := (w.y + w.v2 + wordOf B (p + 48) 8).rotateRight 42 * mul + v1 * 9 + wordOf B (p + 40) 8
    let z := (w.z + w1).rotateRight 33 * mul
    let a := w.v2 * mul
    let b := x + w1
    let c := z + w.w2
    let d := y + wordOf B (p + 16) 8
    let q := quadOf B p
    let r := quadOf B (p + 32)
    let v1' := specWeak1 q.w0 q.w1 q.w2 q.w3 a
    let v2' := specWeak2 q.w0 q.w1 q.w2 q.w3 a b
    let w1' := specWeak1 r.w0 r.w1 r.w2 r.w3 c
    let w2' := specWeak2 r.w0 r.w1 r.w2 r.w3 c d
    ∃ (regs : Work) (f : Nat), regs.u = w.u ∧
      exec .naFinal s = .next
        { s with
          digest := specHash16 (specHash16 v1' w1' mul + (y ^^^ (y >>> 47)) * specK0 + x)
            (specHash16 v2' w2' mul + z) mul
          busy := false, done := true, phase := .idle, work := regs, free := f }

/-- `UO_INIT` sets all nine registers to the constants of its table, reads nothing and enters the loop at `POS` 0;
nothing else changes. The expressions are the spec's decision D34 (general knowledge). -/
def Obligations.UoInitSetsTheTable : Prop :=
  ∀ s : State, s.phase = .init → s.tier = .uo → s.memFault = false →
    exec .uoInit s = .next
      { s with
        work :=
          { x := 0x01529cba0ca458ff, y := 0x71, z := 0x7cb371d23f5eb1e0, u := 0x834c8e2dc0a14e71, v1 := 0x51
            v2 := 0, w1 := 0, w2 := 0, mul := 0x9ae16a3b2f90404f }
        pos := 0, phase := .block }

/-- `UO_BLOCK`: the four groups on the eight words at `POS` with the two swaps in order, `POS` on by 64, `FINAL` at
`END`; `MUL` and everything else stay. The expressions are the spec's decision D35 (general knowledge). -/
def Obligations.UoBlockUpdatesTheRegisters : Prop :=
  ∀ (s : State) (B : List Byte), Running s B → s.phase = .block → s.tier = .uo →
    s.pos.toNat + 64 ≤ B.length →
    let p := s.pos.toNat
    let w := s.work
    let a0 := wordOf B p 8
    let a1 := wordOf B (p + 8) 8
    let a2 := wordOf B (p + 16) 8
    let a3 := wordOf B (p + 24) 8
    let a4 := wordOf B (p + 32) 8
    let a5 := wordOf B (p + 40) 8
    let a6 := wordOf B (p + 48) 8
    let a7 := wordOf B (p + 56) 8
    let x2 := (w.x + a0 + a1).rotateRight 26 * 9
    let y2 := (w.y + a2).rotateRight 29
    let v1₂ := (w.v1 + a4).rotateRight 33
    let v2₂ := (w.v2 + a5 + a1).rotateRight 30
    let w1₂ := ((w.w1 + a6) ^^^ x2) * 9
    let zt := ((w.z + a3) * w.mul).rotateRight 32 + (w.w2 + a7)
    let w2₂ := w.w2 + a7 + zt
    let z3 := zt * 9 + a0 + a6
    let v1₃ := v1₂ + a2
    let v2₃ := v2₂ + a3
    let w1₃ := w1₂ + a4
    let w2₃ := w2₂ + a5 + a6
    let x3 := x2 + a1
    let y4 := w.u + a7 + v1₃
    let v2₄ := v2₃ + w1₃
    let w2₄ := w2₃ + (x3 - y4)
    exec .uoBlock s = .next
      { s with
        work := { w with
          x := x3 + w2₄, y := y4, z := y2, u := z3, v1 := v1₃ + (x3 - y4), v2 := v2₄, w1 := w1₃ + v2₄
          w2 := w2₄.rotateRight 34 }
        pos := s.pos + 64
        phase := if s.pos + 64 = s.endOff then .final else .block }

/-- `UO_FINAL`: the digest from the final pass over the last 64 bytes, with the flags of `Complete`; the working
registers hold no value after it (free ones, notes/assumptions/4.md); nothing else changes. The expressions are the
spec's decision D36 (general knowledge). -/
def Obligations.UoFinalCompletesTheCommand : Prop :=
  ∀ (s : State) (B : List Byte), Running s B → s.phase = .final → s.tier = .uo → 64 ≤ B.length →
    let p := B.length - 64
    let w := s.work
    let v2 := w.v2.rotateRight 28
    let v1 := w.v1.rotateRight 20
    let w1 := w.w1 + BitVec.ofNat 64 ((B.length - 1) % 64)
    let u := w.u * 9 + w.y
    let y1 := w.y + u
    let x := ((y1 - w.x + v1 + wordOf B (p + 8) 8).rotateRight 37 * w.mul) ^^^ (w.w2 * 9)
    let y := (y1 ^^^ v2 ^^^ wordOf B (p + 48) 8).rotateRight 42 * w.mul + v1 + wordOf B (p + 40) 8
    let z := (w.z + w1).rotateRight 33 * w.mul
    let a := v2 * w.mul
    let b := x + w1
    let c := z + w.w2
    let d := y + wordOf B (p + 16) 8
    let q := quadOf B p
    let r := quadOf B (p + 32)
    let v1' := specWeak1 q.w0 q.w1 q.w2 q.w3 a
    let v2' := specWeak2 q.w0 q.w1 q.w2 q.w3 a b
    let w1' := specWeak1 r.w0 r.w1 r.w2 r.w3 c
    let w2' := specWeak2 r.w0 r.w1 r.w2 r.w3 c d
    ∃ (regs : Work) (f : Nat),
      exec .uoFinal s = .next
        { s with
          digest := specHuo (specHash16 (v1' + x) (w1' ^^^ y) w.mul + z - u)
            (specHuo (v2' + y) (w2' + z) specK2 30 ^^^ x) specK2 31
          busy := false, done := true, phase := .idle, work := regs, free := f }

/-- An enabled sequencer step one of whose bytes the memory refuses takes no effect but the recorded MemFault: the
flags, latches, `POS`, `DIGEST` and working registers are as before the step. -/
def Obligations.SequencerStepsTrapOnARefusedByte : Prop :=
  ∀ s : State, s.memFault = false →
    (s.phase = .init → s.tier = dispatch s.len → s.len.toNat ≤ 96 → RefusedAt s 0 s.len.toNat →
      exec .runTier s = .next { s with memFault := true }) ∧
    (s.phase = .init → s.tier = .na → RefusedAt s 0 8 →
      exec .naInit s = .next { s with memFault := true } ∧ exec .runTier s = .next { s with memFault := true }) ∧
    (s.phase = .block → s.tier = .na → RefusedAt s s.pos 64 → exec .naBlock s = .next { s with memFault := true }) ∧
    (s.phase = .block → s.tier = .uo → RefusedAt s s.pos 64 → exec .uoBlock s = .next { s with memFault := true }) ∧
    (s.phase = .final → s.tier = .na → RefusedAt s (s.len - 64) 64 →
      exec .naFinal s = .next { s with memFault := true }) ∧
    (s.phase = .final → s.tier = .uo → RefusedAt s (s.len - 64) 64 →
      exec .uoFinal s = .next { s with memFault := true })

/-- A sequencer step outside its phase and tier, or after a MemFault, is refused (the model's form of "not enabled",
notes/assumptions/7.md). -/
def Obligations.SequencerStepsNeedTheirPhase : Prop :=
  (∀ s : State, s.phase ≠ .init ∨ s.memFault = true → exec .runTier s = .refused .notEnabled) ∧
  ∀ (s : State) (row : Instr × Phase × Tier),
    row ∈ ([(.naInit, .init, .na), (.naBlock, .block, .na), (.naFinal, .final, .na), (.h64na, .init, .na),
      (.uoInit, .init, .uo), (.uoBlock, .block, .uo), (.uoFinal, .final, .uo), (.h64uo, .init, .uo)] :
        List (Instr × Phase × Tier)) →
    s.phase ≠ row.2.1 ∨ s.tier ≠ row.2.2 ∨ s.memFault = true → exec row.1 s = .refused .notEnabled

/-! ### Whole routines and commands -/

/-- `H64NA` on a fully held window: the digest of the reference function, the flags of `Complete`, `POS` left at `END`,
working registers but `U` without a value (free, notes/assumptions/4.md); nothing else changes. -/
def Obligations.H64naHashesItsWindow : Prop :=
  ∀ (s : State) (B : List Byte), MachineInv s → Running s B → s.phase = .init → s.tier = .na →
    ∃ (regs : Work) (f : Nat), regs.u = s.work.u ∧
      exec .h64na s = .next
        { s with
          digest := hashBytes B, busy := false, done := true, phase := .idle, pos := s.endOff, work := regs
          free := f }

/-- `H64UO` on a fully held window: the digest of the reference function, the flags of `Complete`, `POS` left at `END`,
working registers without a value (free, notes/assumptions/4.md); nothing else changes. -/
def Obligations.H64uoHashesItsWindow : Prop :=
  ∀ (s : State) (B : List Byte), MachineInv s → Running s B → s.phase = .init → s.tier = .uo →
    ∃ (regs : Work) (f : Nat),
      exec .h64uo s = .next
        { s with
          digest := hashBytes B, busy := false, done := true, phase := .idle, pos := s.endOff, work := regs
          free := f }

/-- `HASH64`: every launch that meets the contract over a window the memory holds ends with the digest of the window's
bytes, `DONE` set, `BUSY` clear, `IDLE`; operand registers, memory and the host's side are unchanged. That the command is one
step here is the model's form (notes/assumptions/14.md). -/
def Obligations.Hash64DigestIsTheHashOfTheWindow : Prop :=
  ∀ (s : State) (B : List Byte), LaunchReady s → s.length.toNat = B.length →
    WindowHolds s.mem (s.base + s.offset) B →
    ∃ t, exec .hash64 s = .next t ∧ t.digest = hashBytes B ∧ t.done = true ∧ t.busy = false ∧
      t.phase = .idle ∧ t.memFault = false ∧ t.startAddr = s.base + s.offset ∧ t.len = s.length ∧
      t.tier = dispatch s.length ∧ t.base = s.base ∧ t.offset = s.offset ∧ t.length = s.length ∧
      t.mem = s.mem ∧ t.devices = s.devices ∧ t.agenda = s.agenda ∧ t.observed = s.observed ∧
      t.agent = s.agent ∧ t.use = s.use ∧ t.stage = s.stage ∧ t.baseWritten = true ∧ t.offsetWritten = true ∧ t.lengthWritten = true ∧
      (B.length ≤ 96 → t.work = s.work ∧ t.pos = s.pos)

/-- `HASH64` of an empty window is `K2` for every base, offset and memory. -/
def Obligations.Hash64OfNothingIsK2 : Prop :=
  ∀ s : State, s.phase = .idle → s.memFault = false →
    s.baseWritten = true → s.offsetWritten = true → s.lengthWritten = true → s.length = 0 →
    ∃ t, exec .hash64 s = .next t ∧ t.digest = 0x9ae16a3b2f90404f ∧ t.done = true ∧ t.memFault = false

/-- The digest is a function of the length and the window's bytes only: two launches over windows that hold the same
bytes, in any two states, at any addresses, however split between base and offset, after any history and whatever lies
outside the windows, end with the same digest. -/
def Obligations.Hash64DependsOnTheWindowOnly : Prop :=
  ∀ (s s' : State) (B : List Byte), LaunchReady s → LaunchReady s' →
    s.length.toNat = B.length → s'.length.toNat = B.length →
    WindowHolds s.mem (s.base + s.offset) B → WindowHolds s'.mem (s'.base + s'.offset) B →
    ∃ t t', exec .hash64 s = .next t ∧ exec .hash64 s' = .next t' ∧ t.digest = t'.digest ∧
      t.done = true ∧ t'.done = true

/-- One refused byte anywhere in the window and the command never completes: it ends held with the fault recorded,
`BUSY` 1, `DONE` 0, `DIGEST` as it was. -/
def Obligations.Hash64FaultsOnAnyRefusedByte : Prop :=
  ∀ s : State, LaunchReady s →
    (∃ k < s.length.toNat, memLookup s.mem (s.base + s.offset + BitVec.ofNat 64 k).toNat = none) →
    ∃ t, exec .hash64 s = .next t ∧ t.memFault = true ∧ t.busy = true ∧ t.done = false ∧
      t.phase ≠ .idle ∧ t.digest = s.digest ∧ t.mem = s.mem

/-- The command as one atomic step (notes/assumptions/14.md) is the command step by step: acceptance, then the core's own steps; as many as its
length takes where it completes, at most that many where a MemFault holds it. -/
def Obligations.Hash64IsAcceptanceThenCoreSteps : Prop :=
  ∀ s t : State, LaunchReady s → s.agenda = [] → exec .hash64 s = .next t →
    ∃ (u : State) (j : Nat), exec .startAccept s = .next u ∧ runSteps j u = .next t ∧
      j ≤ commandSteps s.length.toNat ∧ (t.memFault = false → j = commandSteps s.length.toNat)

/-- The streaming routines as one atomic step (notes/assumptions/14.md) are `INIT`, one `BLOCK` step per full block and
`FINAL` run one by one, where no read is refused. A run that ends in a MemFault is left out here;
`Obligations.Hash64IsAcceptanceThenCoreSteps` has it for the whole command. -/
def Obligations.StreamingRoutinesAreTheirSteps : Prop :=
  ∀ s t : State, MachineInv s → s.agenda = [] → s.phase = .init → s.memFault = false →
    (s.tier = .na → exec .h64na s = .next t → t.memFault = false →
      runSteps (2 + s.endOff.toNat / 64) s = .next t) ∧
    (s.tier = .uo → exec .h64uo s = .next t → t.memFault = false →
      runSteps (2 + s.endOff.toNat / 64) s = .next t)

/-- Every accepted command over a held window completes: after exactly its number of core steps the digest of the
window's bytes is in `DIGEST`, and before that it is still `BUSY`. -/
def Obligations.AcceptedCommandsComplete : Prop :=
  ∀ (s : State) (B : List Byte), MachineInv s → Running s B → s.phase = .init → s.agenda = [] →
    (∃ t, runSteps (commandSteps B.length) s = .next t ∧ t.phase = .idle ∧ t.done = true ∧
      t.busy = false ∧ t.digest = hashBytes B) ∧
    ∀ j < commandSteps B.length, ∃ u, runSteps j s = .next u ∧ u.busy = true ∧ u.done = false

/-! ### The fault and the host's port -/

/-- A recorded MemFault stays, with `BUSY` 1 and `DONE` 0, and no step but the host's reset changes an interface
register, a flag, a latch or a working register; with nothing pending, or the host waiting, the machine is stuck. -/
def Obligations.MemFaultHoldsUntilReset : Prop :=
  ∀ s : State, MachineInv s → s.memFault = true →
    (∀ t, step s = .next t → (∀ rest, s.agenda ≠ .host .reset :: rest) →
      t.memFault = true ∧ t.busy = true ∧ t.done = false ∧ t.digest = s.digest ∧ t.base = s.base ∧
      t.offset = s.offset ∧ t.length = s.length ∧ t.work = s.work ∧ t.phase = s.phase ∧ t.pos = s.pos ∧
      t.endOff = s.endOff ∧ t.startAddr = s.startAddr ∧ t.len = s.len ∧ t.tier = s.tier) ∧
    (s.agenda = [] → step s = .fault .memFault) ∧
    (∀ rest, s.agenda = .host .wait :: rest → step s = .fault .memFault)

/-- Host writes: an operand register takes the value only while `BUSY=0`; `CR3` acts through bit 0 alone; `CR4` never
takes one. Ignored writes change nothing. An operand write, and a START that is not ignored, are noted as a use of the
instance (notes/assumptions/22.md). -/
def Obligations.HostWritesOperandsOnlyWhileNotBusy : Prop :=
  ∀ (s : State) (v : U64) (rest : List Event),
    let u := { s with agenda := rest }
    (s.agenda = .host (.write .cr0 v) :: rest →
      step s = .next (if s.busy then u else { u with base := v, baseWritten := true, use := .operands })) ∧
    (s.agenda = .host (.write .cr1 v) :: rest →
      step s = .next (if s.busy then u else { u with offset := v, offsetWritten := true, use := .operands })) ∧
    (s.agenda = .host (.write .cr2 v) :: rest →
      step s = .next (if s.busy then u else { u with length := v, lengthWritten := true, use := .operands })) ∧
    (s.agenda = .host (.write .cr3 v) :: rest →
      step s =
        if v.getLsbD 0 = true then
          exec .startAccept { u with use := if s.phase = .idle ∧ s.memFault = false then .command else s.use }
        else .next u) ∧
    (s.agenda = .host (.write .cr4 v) :: rest → step s = .next u)

/-- Host reads: the operand registers as written, `CR3` as `DONE`, `BUSY`, 0 in bits 2, 1, 0, the digest while
`DONE=1` and a refusal otherwise; a read changes nothing but the list of what the host has seen, and a read of the
digest ends the use of the instance whose command it was. That list, and that the bits of a read of `CR3` above bit 2 are 0,
are the model's choice (notes/assumptions/17.md), the record of a use too (notes/assumptions/22.md). -/
def Obligations.HostReadsWhatTheRegistersHold : Prop :=
  ∀ (s : State) (rest : List Event),
    let seen := fun (r : CReg) (v : U64) =>
      step s = .next { s with agenda := rest, observed := s.observed ++ [(r, v)] }
    (s.agenda = .host (.read .cr0) :: rest → seen .cr0 s.base) ∧
    (s.agenda = .host (.read .cr1) :: rest → seen .cr1 s.offset) ∧
    (s.agenda = .host (.read .cr2) :: rest → seen .cr2 s.length) ∧
    (s.agenda = .host (.read .cr3) :: rest →
      seen .cr3 ((if s.done then 4 else 0) + (if s.busy then 2 else 0))) ∧
    (s.agenda = .host (.read .cr4) :: rest → s.done = true →
      step s = .next
        { s with
          agenda := rest, observed := s.observed ++ [(.cr4, s.digest)]
          use := if s.use = .command then .free else s.use }) ∧
    (s.agenda = .host (.read .cr4) :: rest → s.done = false → step s = .refused .digestNotReadable)

/-- `wait` lets the core take its steps until `DONE=1` and is then taken off. That its reads of `CR3` are not put on the
list of what the host has seen is the model's choice (notes/assumptions/17.md). -/
def Obligations.WaitRunsTheCoreUntilDone : Prop :=
  ∀ (s : State) (rest : List Event), s.agenda = .host .wait :: rest → s.memFault = false →
    (s.done = true → step s = .next { s with agenda := rest }) ∧
    (s.done = false → s.phase = .init → step s = exec .runTier s) ∧
    (s.done = false → s.phase = .block → s.tier = .na → step s = exec .naBlock s) ∧
    (s.done = false → s.phase = .block → s.tier = .uo → step s = exec .uoBlock s) ∧
    (s.done = false → s.phase = .final → s.tier = .na → step s = exec .naFinal s) ∧
    (s.done = false → s.phase = .final → s.tier = .uo → step s = exec .uoFinal s)

/-- The digest of a completed command stays readable and unchanged under every host action and core turn but an
accepted START and a reset (the label port is the model's and left aside). -/
def Obligations.DigestStaysUntilTheNextStart : Prop :=
  ∀ s t : State, MachineInv s → s.done = true → step s = .next t →
    (∀ rest, s.agenda ≠ .host .reset :: rest) → (∀ bytes rest, s.agenda ≠ .label bytes :: rest) →
    (t.done = true ∧ t.digest = s.digest) ∨
      (∃ v rest, s.agenda = .host (.write .cr3 v) :: rest ∧ v.getLsbD 0 = true ∧ t.busy = true ∧ t.phase = .init)

/-- One agent at a time: another agent's turn in the middle of an agent's use is refused, any other turn changes only
whose turn it is; no step but such a turn changes the agent, and then no use is in progress. A use comes to the writing of
operands by an operand write while `BUSY=0` alone, to its command by an accepted `START` alone, and it ends by the read of
its command's digest or by reset alone. Two agents without agreement (spec/93_implementation_defined.md U18) are refused so;
the form of it is the model's choice (notes/assumptions/22.md). -/
def Obligations.OneAgentUsesTheInstanceAtATime : Prop :=
  ∀ s : State,
    (∀ (n : Nat) (rest : List Event), s.agenda = .agent n :: rest →
      (n ≠ s.agent → s.use ≠ .free → step s = .refused .sharedWithoutAgreement) ∧
      (n = s.agent ∨ s.use = .free → step s = .next { s with agenda := rest, agent := n })) ∧
    ∀ t, step s = .next t →
      (t.agent ≠ s.agent → s.use = .free ∧ t.use = .free ∧ ∃ rest, s.agenda = .agent t.agent :: rest) ∧
      (s.use ≠ .operands → t.use = .operands → s.busy = false ∧
        ∃ r v rest, (r = .cr0 ∨ r = .cr1 ∨ r = .cr2) ∧ s.agenda = .host (.write r v) :: rest) ∧
      (s.use ≠ .command → t.use = .command → s.phase = .idle ∧ t.phase = .init ∧
        ∃ v rest, v.getLsbD 0 = true ∧ s.agenda = .host (.write .cr3 v) :: rest) ∧
      (s.use ≠ .free → t.use = .free →
        (∃ rest, s.agenda = .host .reset :: rest) ∨
        (s.use = .command ∧ s.done = true ∧ ∃ rest, s.agenda = .host (.read .cr4) :: rest))
end

