-- ==== Sys2Proof/Laws/Memory.lean ====
section
/-! SUPPORT. The memory laws: a byte read after a store, the canonical form every store keeps, and what a read
of several bytes says. -/

namespace Sys2Proof.Machine

theorem memWfFrom_mono {lo lo' : Nat} {m : Memory} (hl : lo' ≤ lo) (h : memWfFrom lo m = true) :
    memWfFrom lo' m = true := by
  cases m with
  | nil => rfl
  | cons c m =>
    simp only [memWfFrom, Bool.and_eq_true, decide_eq_true_eq] at h ⊢
    exact ⟨⟨by omega, h.1.2⟩, h.2⟩

/-- A canonical memory lists nothing below its lower bound. -/
theorem memLookup_below {lo a : Nat} {m : Memory} (h : memWfFrom lo m = true) (ha : a < lo) :
    memLookup m a = none := by
  cases m with
  | nil => rfl
  | cons c m =>
    simp only [memWfFrom, Bool.and_eq_true, decide_eq_true_eq] at h
    simp only [memLookup]
    rw [if_neg (by omega), if_neg (by omega)]

/-- Read after write, at the stored address and everywhere else (for a canonical memory). -/
theorem memLookup_memStore {lo : Nat} {m : Memory} (h : memWfFrom lo m = true) (a c : Nat) (b : Byte) :
    memLookup (memStore m a b) c = if c = a then some b else memLookup m c := by
  induction m generalizing lo with
  | nil =>
    simp only [memStore, memLookup]
    split_ifs <;> first | rfl | omega
  | cons e m ih =>
    obtain ⟨k, d⟩ := e
    simp only [memWfFrom, Bool.and_eq_true, decide_eq_true_eq] at h
    simp only [memStore]
    split_ifs <;> simp only [memLookup, ih h.2] <;> split_ifs <;> first | rfl | omega

/-- A store keeps the canonical form. -/
theorem memStore_wfFrom {lo : Nat} {m : Memory} (h : memWfFrom lo m = true) {a : Nat} (b : Byte)
    (hl : lo ≤ a) (ha : a < 2 ^ 64) : memWfFrom lo (memStore m a b) = true := by
  induction m generalizing lo with
  | nil =>
    simp only [memStore, memWfFrom, Bool.and_eq_true, decide_eq_true_eq]
    exact ⟨⟨hl, ha⟩, trivial⟩
  | cons e m ih =>
    obtain ⟨k, d⟩ := e
    simp only [memWfFrom, Bool.and_eq_true, decide_eq_true_eq] at h
    simp only [memStore]
    split
    · simp only [memWfFrom, Bool.and_eq_true, decide_eq_true_eq]
      exact ⟨⟨hl, ha⟩, ⟨by omega, h.1.2⟩, h.2⟩
    · split
      · subst_vars
        simp only [memWfFrom, Bool.and_eq_true, decide_eq_true_eq]
        exact ⟨⟨hl, ha⟩, h.2⟩
      · simp only [memWfFrom, Bool.and_eq_true, decide_eq_true_eq]
        exact ⟨h.1, ih h.2 (by omega)⟩

/-- A store at an address of the space keeps the canonical form of memory. -/
theorem memStore_wf {m : Memory} (h : m.wf = true) (a : Addr) (b : Byte) : (memStore m a.toNat b).wf = true :=
  memStore_wfFrom h b (Nat.zero_le _) a.isLt

/-- Reset's memory is canonical. -/
theorem reset_mem_wf : State.reset.mem.wf = true := rfl

/-- What reading `n` bytes says: either every address is admitted and the bytes are those held, or the read
reports an address among them that is refused. -/
theorem readBytes_cases (m : Memory) (a : Addr) (n : Nat) :
    (∃ bs, readBytes m a n = .ok bs ∧ bs.length = n ∧
        ∀ k < n, memLookup m (a + BitVec.ofNat 64 k).toNat = bs[k]?) ∨
      (∃ k < n, readBytes m a n = .error (a + BitVec.ofNat 64 k) ∧
        memLookup m (a + BitVec.ofNat 64 k).toNat = none) := by
  induction n generalizing a with
  | zero => exact .inl ⟨[], rfl, rfl, by simp⟩
  | succ n ih =>
    have shift : ∀ k, a + 1 + BitVec.ofNat 64 k = a + BitVec.ofNat 64 (k + 1) := by
      intro k
      rw [BitVec.ofNat_add, BitVec.add_assoc, BitVec.add_comm (BitVec.ofNat 64 k)]
      rfl
    have zero : a + BitVec.ofNat 64 0 = a := by simp
    cases hb : memLookup m a.toNat with
    | none => exact .inr ⟨0, by omega, by simp only [readBytes, hb, zero], by rw [zero, hb]⟩
    | some b =>
      obtain ⟨bs, hr, hl, hk⟩ | ⟨k, hkn, hr, hn⟩ := ih (a + 1)
      · refine .inl ⟨b :: bs, by simp only [readBytes, hb, hr], by simp [hl], ?_⟩
        intro k hkn
        cases k with
        | zero => rw [zero, hb]; rfl
        | succ k => rw [← shift, hk k (by omega)]; rfl
      · exact .inr ⟨k + 1, by omega, by simp only [readBytes, hb, hr, shift], by rw [← shift]; exact hn⟩

/-- Reading bytes that are all held gives them. -/
theorem readBytes_of_holds {m : Memory} {a : Addr} {n : Nat} {B : List Byte} (hn : n = B.length)
    (h : ∀ k < n, memLookup m (a + BitVec.ofNat 64 k).toNat = B[k]?) : readBytes m a n = .ok B := by
  obtain ⟨bs, hr, hl, hk⟩ | ⟨k, hkn, -, hx⟩ := readBytes_cases m a n
  · rw [hr]
    congr 1
    apply List.ext_getElem?
    intro k
    by_cases hkn : k < n
    · rw [← hk k hkn, h k hkn]
    · rw [List.getElem?_eq_none (by omega), List.getElem?_eq_none (by omega)]
  · rw [h k hkn] at hx
    simp at hx
    omega

end Sys2Proof.Machine
end

