-- ==== Sys2Proof/Laws/State.lean ====
section
/-! SUPPORT. What each named update of the state does to each field: one lemma per field per update, all true
by `rfl`, so that no proof unfolds a record update. The parentheses around `rfl` keep `simp` from folding many of them
into one large comparison of whole states, which the kernel would have to make. -/

namespace Sys2Proof.Machine

/-! ### complete -/

@[simp] theorem complete_base (d : U64) (s : State) : (complete d s).base = s.base := (rfl)
@[simp] theorem complete_offset (d : U64) (s : State) : (complete d s).offset = s.offset := (rfl)
@[simp] theorem complete_length (d : U64) (s : State) : (complete d s).length = s.length := (rfl)
@[simp] theorem complete_busy (d : U64) (s : State) : (complete d s).busy = false := (rfl)
@[simp] theorem complete_done (d : U64) (s : State) : (complete d s).done = true := (rfl)
@[simp] theorem complete_digest (d : U64) (s : State) : (complete d s).digest = d := (rfl)
@[simp] theorem complete_work (d : U64) (s : State) : (complete d s).work = s.work := (rfl)
@[simp] theorem complete_phase (d : U64) (s : State) : (complete d s).phase = .idle := (rfl)
@[simp] theorem complete_pos (d : U64) (s : State) : (complete d s).pos = s.pos := (rfl)
@[simp] theorem complete_endOff (d : U64) (s : State) : (complete d s).endOff = s.endOff := (rfl)
@[simp] theorem complete_startAddr (d : U64) (s : State) : (complete d s).startAddr = s.startAddr := (rfl)
@[simp] theorem complete_len (d : U64) (s : State) : (complete d s).len = s.len := (rfl)
@[simp] theorem complete_tier (d : U64) (s : State) : (complete d s).tier = s.tier := (rfl)
@[simp] theorem complete_memFault (d : U64) (s : State) : (complete d s).memFault = s.memFault := (rfl)
@[simp] theorem complete_mem (d : U64) (s : State) : (complete d s).mem = s.mem := (rfl)
@[simp] theorem complete_devices (d : U64) (s : State) : (complete d s).devices = s.devices := (rfl)
@[simp] theorem complete_baseWritten (d : U64) (s : State) : (complete d s).baseWritten = s.baseWritten := (rfl)
@[simp] theorem complete_offsetWritten (d : U64) (s : State) : (complete d s).offsetWritten = s.offsetWritten := (rfl)
@[simp] theorem complete_lengthWritten (d : U64) (s : State) : (complete d s).lengthWritten = s.lengthWritten := (rfl)
@[simp] theorem complete_stage (d : U64) (s : State) : (complete d s).stage = s.stage := (rfl)
@[simp] theorem complete_free (d : U64) (s : State) : (complete d s).free = s.free := (rfl)
@[simp] theorem complete_agenda (d : U64) (s : State) : (complete d s).agenda = s.agenda := (rfl)
@[simp] theorem complete_observed (d : U64) (s : State) : (complete d s).observed = s.observed := (rfl)
@[simp] theorem complete_agent (d : U64) (s : State) : (complete d s).agent = s.agent := (rfl)
@[simp] theorem complete_use (d : U64) (s : State) : (complete d s).use = s.use := (rfl)

/-! ### accept -/

@[simp] theorem accept_base (s : State) : (accept s).base = s.base := (rfl)
@[simp] theorem accept_offset (s : State) : (accept s).offset = s.offset := (rfl)
@[simp] theorem accept_length (s : State) : (accept s).length = s.length := (rfl)
@[simp] theorem accept_busy (s : State) : (accept s).busy = true := (rfl)
@[simp] theorem accept_done (s : State) : (accept s).done = false := (rfl)
@[simp] theorem accept_digest (s : State) : (accept s).digest = s.digest := (rfl)
@[simp] theorem accept_work (s : State) : (accept s).work = s.work := (rfl)
@[simp] theorem accept_phase (s : State) : (accept s).phase = .init := (rfl)
@[simp] theorem accept_pos (s : State) : (accept s).pos = s.pos := (rfl)
@[simp] theorem accept_endOff (s : State) : (accept s).endOff = s.endOff := (rfl)
@[simp] theorem accept_startAddr (s : State) : (accept s).startAddr = s.startAddr := (rfl)
@[simp] theorem accept_len (s : State) : (accept s).len = s.len := (rfl)
@[simp] theorem accept_tier (s : State) : (accept s).tier = s.tier := (rfl)
@[simp] theorem accept_memFault (s : State) : (accept s).memFault = s.memFault := (rfl)
@[simp] theorem accept_mem (s : State) : (accept s).mem = s.mem := (rfl)
@[simp] theorem accept_devices (s : State) : (accept s).devices = s.devices := (rfl)
@[simp] theorem accept_baseWritten (s : State) : (accept s).baseWritten = s.baseWritten := (rfl)
@[simp] theorem accept_offsetWritten (s : State) : (accept s).offsetWritten = s.offsetWritten := (rfl)
@[simp] theorem accept_lengthWritten (s : State) : (accept s).lengthWritten = s.lengthWritten := (rfl)
@[simp] theorem accept_stage (s : State) : (accept s).stage = s.stage := (rfl)
@[simp] theorem accept_free (s : State) : (accept s).free = s.free := (rfl)
@[simp] theorem accept_agenda (s : State) : (accept s).agenda = s.agenda := (rfl)
@[simp] theorem accept_observed (s : State) : (accept s).observed = s.observed := (rfl)
@[simp] theorem accept_agent (s : State) : (accept s).agent = s.agent := (rfl)
@[simp] theorem accept_use (s : State) : (accept s).use = s.use := (rfl)

/-! ### recordMemFault -/

@[simp] theorem recordMemFault_base (s : State) : (recordMemFault s).base = s.base := (rfl)
@[simp] theorem recordMemFault_offset (s : State) : (recordMemFault s).offset = s.offset := (rfl)
@[simp] theorem recordMemFault_length (s : State) : (recordMemFault s).length = s.length := (rfl)
@[simp] theorem recordMemFault_busy (s : State) : (recordMemFault s).busy = s.busy := (rfl)
@[simp] theorem recordMemFault_done (s : State) : (recordMemFault s).done = s.done := (rfl)
@[simp] theorem recordMemFault_digest (s : State) : (recordMemFault s).digest = s.digest := (rfl)
@[simp] theorem recordMemFault_work (s : State) : (recordMemFault s).work = s.work := (rfl)
@[simp] theorem recordMemFault_phase (s : State) : (recordMemFault s).phase = s.phase := (rfl)
@[simp] theorem recordMemFault_pos (s : State) : (recordMemFault s).pos = s.pos := (rfl)
@[simp] theorem recordMemFault_endOff (s : State) : (recordMemFault s).endOff = s.endOff := (rfl)
@[simp] theorem recordMemFault_startAddr (s : State) : (recordMemFault s).startAddr = s.startAddr := (rfl)
@[simp] theorem recordMemFault_len (s : State) : (recordMemFault s).len = s.len := (rfl)
@[simp] theorem recordMemFault_tier (s : State) : (recordMemFault s).tier = s.tier := (rfl)
@[simp] theorem recordMemFault_memFault (s : State) : (recordMemFault s).memFault = true := (rfl)
@[simp] theorem recordMemFault_mem (s : State) : (recordMemFault s).mem = s.mem := (rfl)
@[simp] theorem recordMemFault_devices (s : State) : (recordMemFault s).devices = s.devices := (rfl)
@[simp] theorem recordMemFault_baseWritten (s : State) : (recordMemFault s).baseWritten = s.baseWritten := (rfl)
@[simp] theorem recordMemFault_offsetWritten (s : State) : (recordMemFault s).offsetWritten = s.offsetWritten := (rfl)
@[simp] theorem recordMemFault_lengthWritten (s : State) : (recordMemFault s).lengthWritten = s.lengthWritten := (rfl)
@[simp] theorem recordMemFault_stage (s : State) : (recordMemFault s).stage = s.stage := (rfl)
@[simp] theorem recordMemFault_free (s : State) : (recordMemFault s).free = s.free := (rfl)
@[simp] theorem recordMemFault_agenda (s : State) : (recordMemFault s).agenda = s.agenda := (rfl)
@[simp] theorem recordMemFault_observed (s : State) : (recordMemFault s).observed = s.observed := (rfl)
@[simp] theorem recordMemFault_agent (s : State) : (recordMemFault s).agent = s.agent := (rfl)
@[simp] theorem recordMemFault_use (s : State) : (recordMemFault s).use = s.use := (rfl)

/-! ### setStage -/

@[simp] theorem setStage_base (r : StageResult) (s : State) : (setStage r s).base = s.base := (rfl)
@[simp] theorem setStage_offset (r : StageResult) (s : State) : (setStage r s).offset = s.offset := (rfl)
@[simp] theorem setStage_length (r : StageResult) (s : State) : (setStage r s).length = s.length := (rfl)
@[simp] theorem setStage_busy (r : StageResult) (s : State) : (setStage r s).busy = s.busy := (rfl)
@[simp] theorem setStage_done (r : StageResult) (s : State) : (setStage r s).done = s.done := (rfl)
@[simp] theorem setStage_digest (r : StageResult) (s : State) : (setStage r s).digest = s.digest := (rfl)
@[simp] theorem setStage_work (r : StageResult) (s : State) : (setStage r s).work = s.work := (rfl)
@[simp] theorem setStage_phase (r : StageResult) (s : State) : (setStage r s).phase = s.phase := (rfl)
@[simp] theorem setStage_pos (r : StageResult) (s : State) : (setStage r s).pos = s.pos := (rfl)
@[simp] theorem setStage_endOff (r : StageResult) (s : State) : (setStage r s).endOff = s.endOff := (rfl)
@[simp] theorem setStage_startAddr (r : StageResult) (s : State) : (setStage r s).startAddr = s.startAddr := (rfl)
@[simp] theorem setStage_len (r : StageResult) (s : State) : (setStage r s).len = s.len := (rfl)
@[simp] theorem setStage_tier (r : StageResult) (s : State) : (setStage r s).tier = s.tier := (rfl)
@[simp] theorem setStage_memFault (r : StageResult) (s : State) : (setStage r s).memFault = s.memFault := (rfl)
@[simp] theorem setStage_mem (r : StageResult) (s : State) : (setStage r s).mem = s.mem := (rfl)
@[simp] theorem setStage_devices (r : StageResult) (s : State) : (setStage r s).devices = s.devices := (rfl)
@[simp] theorem setStage_baseWritten (r : StageResult) (s : State) : (setStage r s).baseWritten = s.baseWritten := (rfl)
@[simp] theorem setStage_offsetWritten (r : StageResult) (s : State) : (setStage r s).offsetWritten = s.offsetWritten := (rfl)
@[simp] theorem setStage_lengthWritten (r : StageResult) (s : State) : (setStage r s).lengthWritten = s.lengthWritten := (rfl)
@[simp] theorem setStage_stage (r : StageResult) (s : State) : (setStage r s).stage = r := (rfl)
@[simp] theorem setStage_free (r : StageResult) (s : State) : (setStage r s).free = s.free := (rfl)
@[simp] theorem setStage_agenda (r : StageResult) (s : State) : (setStage r s).agenda = s.agenda := (rfl)
@[simp] theorem setStage_observed (r : StageResult) (s : State) : (setStage r s).observed = s.observed := (rfl)
@[simp] theorem setStage_agent (r : StageResult) (s : State) : (setStage r s).agent = s.agent := (rfl)
@[simp] theorem setStage_use (r : StageResult) (s : State) : (setStage r s).use = s.use := (rfl)

/-! ### advanceBlock -/

@[simp] theorem advanceBlock_base (s : State) : (advanceBlock s).base = s.base := (rfl)
@[simp] theorem advanceBlock_offset (s : State) : (advanceBlock s).offset = s.offset := (rfl)
@[simp] theorem advanceBlock_length (s : State) : (advanceBlock s).length = s.length := (rfl)
@[simp] theorem advanceBlock_busy (s : State) : (advanceBlock s).busy = s.busy := (rfl)
@[simp] theorem advanceBlock_done (s : State) : (advanceBlock s).done = s.done := (rfl)
@[simp] theorem advanceBlock_digest (s : State) : (advanceBlock s).digest = s.digest := (rfl)
@[simp] theorem advanceBlock_work (s : State) : (advanceBlock s).work = s.work := (rfl)
@[simp] theorem advanceBlock_phase (s : State) : (advanceBlock s).phase = if s.pos + 64 = s.endOff then .final else s.phase := (rfl)
@[simp] theorem advanceBlock_pos (s : State) : (advanceBlock s).pos = s.pos + 64 := (rfl)
@[simp] theorem advanceBlock_endOff (s : State) : (advanceBlock s).endOff = s.endOff := (rfl)
@[simp] theorem advanceBlock_startAddr (s : State) : (advanceBlock s).startAddr = s.startAddr := (rfl)
@[simp] theorem advanceBlock_len (s : State) : (advanceBlock s).len = s.len := (rfl)
@[simp] theorem advanceBlock_tier (s : State) : (advanceBlock s).tier = s.tier := (rfl)
@[simp] theorem advanceBlock_memFault (s : State) : (advanceBlock s).memFault = s.memFault := (rfl)
@[simp] theorem advanceBlock_mem (s : State) : (advanceBlock s).mem = s.mem := (rfl)
@[simp] theorem advanceBlock_devices (s : State) : (advanceBlock s).devices = s.devices := (rfl)
@[simp] theorem advanceBlock_baseWritten (s : State) : (advanceBlock s).baseWritten = s.baseWritten := (rfl)
@[simp] theorem advanceBlock_offsetWritten (s : State) : (advanceBlock s).offsetWritten = s.offsetWritten := (rfl)
@[simp] theorem advanceBlock_lengthWritten (s : State) : (advanceBlock s).lengthWritten = s.lengthWritten := (rfl)
@[simp] theorem advanceBlock_stage (s : State) : (advanceBlock s).stage = s.stage := (rfl)
@[simp] theorem advanceBlock_free (s : State) : (advanceBlock s).free = s.free := (rfl)
@[simp] theorem advanceBlock_agenda (s : State) : (advanceBlock s).agenda = s.agenda := (rfl)
@[simp] theorem advanceBlock_observed (s : State) : (advanceBlock s).observed = s.observed := (rfl)
@[simp] theorem advanceBlock_agent (s : State) : (advanceBlock s).agent = s.agent := (rfl)
@[simp] theorem advanceBlock_use (s : State) : (advanceBlock s).use = s.use := (rfl)

/-! ### setWork -/

@[simp] theorem setWork_base (w : Work) (s : State) : (setWork w s).base = s.base := (rfl)
@[simp] theorem setWork_offset (w : Work) (s : State) : (setWork w s).offset = s.offset := (rfl)
@[simp] theorem setWork_length (w : Work) (s : State) : (setWork w s).length = s.length := (rfl)
@[simp] theorem setWork_busy (w : Work) (s : State) : (setWork w s).busy = s.busy := (rfl)
@[simp] theorem setWork_done (w : Work) (s : State) : (setWork w s).done = s.done := (rfl)
@[simp] theorem setWork_digest (w : Work) (s : State) : (setWork w s).digest = s.digest := (rfl)
@[simp] theorem setWork_work (w : Work) (s : State) : (setWork w s).work = w := (rfl)
@[simp] theorem setWork_phase (w : Work) (s : State) : (setWork w s).phase = s.phase := (rfl)
@[simp] theorem setWork_pos (w : Work) (s : State) : (setWork w s).pos = s.pos := (rfl)
@[simp] theorem setWork_endOff (w : Work) (s : State) : (setWork w s).endOff = s.endOff := (rfl)
@[simp] theorem setWork_startAddr (w : Work) (s : State) : (setWork w s).startAddr = s.startAddr := (rfl)
@[simp] theorem setWork_len (w : Work) (s : State) : (setWork w s).len = s.len := (rfl)
@[simp] theorem setWork_tier (w : Work) (s : State) : (setWork w s).tier = s.tier := (rfl)
@[simp] theorem setWork_memFault (w : Work) (s : State) : (setWork w s).memFault = s.memFault := (rfl)
@[simp] theorem setWork_mem (w : Work) (s : State) : (setWork w s).mem = s.mem := (rfl)
@[simp] theorem setWork_devices (w : Work) (s : State) : (setWork w s).devices = s.devices := (rfl)
@[simp] theorem setWork_baseWritten (w : Work) (s : State) : (setWork w s).baseWritten = s.baseWritten := (rfl)
@[simp] theorem setWork_offsetWritten (w : Work) (s : State) : (setWork w s).offsetWritten = s.offsetWritten := (rfl)
@[simp] theorem setWork_lengthWritten (w : Work) (s : State) : (setWork w s).lengthWritten = s.lengthWritten := (rfl)
@[simp] theorem setWork_stage (w : Work) (s : State) : (setWork w s).stage = s.stage := (rfl)
@[simp] theorem setWork_free (w : Work) (s : State) : (setWork w s).free = s.free := (rfl)
@[simp] theorem setWork_agenda (w : Work) (s : State) : (setWork w s).agenda = s.agenda := (rfl)
@[simp] theorem setWork_observed (w : Work) (s : State) : (setWork w s).observed = s.observed := (rfl)
@[simp] theorem setWork_agent (w : Work) (s : State) : (setWork w s).agent = s.agent := (rfl)
@[simp] theorem setWork_use (w : Work) (s : State) : (setWork w s).use = s.use := (rfl)

/-! ### enterLoop -/

@[simp] theorem enterLoop_base (s : State) : (enterLoop s).base = s.base := (rfl)
@[simp] theorem enterLoop_offset (s : State) : (enterLoop s).offset = s.offset := (rfl)
@[simp] theorem enterLoop_length (s : State) : (enterLoop s).length = s.length := (rfl)
@[simp] theorem enterLoop_busy (s : State) : (enterLoop s).busy = s.busy := (rfl)
@[simp] theorem enterLoop_done (s : State) : (enterLoop s).done = s.done := (rfl)
@[simp] theorem enterLoop_digest (s : State) : (enterLoop s).digest = s.digest := (rfl)
@[simp] theorem enterLoop_work (s : State) : (enterLoop s).work = s.work := (rfl)
@[simp] theorem enterLoop_phase (s : State) : (enterLoop s).phase = .block := (rfl)
@[simp] theorem enterLoop_pos (s : State) : (enterLoop s).pos = 0 := (rfl)
@[simp] theorem enterLoop_endOff (s : State) : (enterLoop s).endOff = s.endOff := (rfl)
@[simp] theorem enterLoop_startAddr (s : State) : (enterLoop s).startAddr = s.startAddr := (rfl)
@[simp] theorem enterLoop_len (s : State) : (enterLoop s).len = s.len := (rfl)
@[simp] theorem enterLoop_tier (s : State) : (enterLoop s).tier = s.tier := (rfl)
@[simp] theorem enterLoop_memFault (s : State) : (enterLoop s).memFault = s.memFault := (rfl)
@[simp] theorem enterLoop_mem (s : State) : (enterLoop s).mem = s.mem := (rfl)
@[simp] theorem enterLoop_devices (s : State) : (enterLoop s).devices = s.devices := (rfl)
@[simp] theorem enterLoop_baseWritten (s : State) : (enterLoop s).baseWritten = s.baseWritten := (rfl)
@[simp] theorem enterLoop_offsetWritten (s : State) : (enterLoop s).offsetWritten = s.offsetWritten := (rfl)
@[simp] theorem enterLoop_lengthWritten (s : State) : (enterLoop s).lengthWritten = s.lengthWritten := (rfl)
@[simp] theorem enterLoop_stage (s : State) : (enterLoop s).stage = s.stage := (rfl)
@[simp] theorem enterLoop_free (s : State) : (enterLoop s).free = s.free := (rfl)
@[simp] theorem enterLoop_agenda (s : State) : (enterLoop s).agenda = s.agenda := (rfl)
@[simp] theorem enterLoop_observed (s : State) : (enterLoop s).observed = s.observed := (rfl)
@[simp] theorem enterLoop_agent (s : State) : (enterLoop s).agent = s.agent := (rfl)
@[simp] theorem enterLoop_use (s : State) : (enterLoop s).use = s.use := (rfl)

/-! ### latch -/

@[simp] theorem latch_base (s : State) : (latch s).base = s.base := (rfl)
@[simp] theorem latch_offset (s : State) : (latch s).offset = s.offset := (rfl)
@[simp] theorem latch_length (s : State) : (latch s).length = s.length := (rfl)
@[simp] theorem latch_busy (s : State) : (latch s).busy = s.busy := (rfl)
@[simp] theorem latch_done (s : State) : (latch s).done = s.done := (rfl)
@[simp] theorem latch_digest (s : State) : (latch s).digest = s.digest := (rfl)
@[simp] theorem latch_work (s : State) : (latch s).work = s.work := (rfl)
@[simp] theorem latch_phase (s : State) : (latch s).phase = s.phase := (rfl)
@[simp] theorem latch_pos (s : State) : (latch s).pos = s.pos := (rfl)
@[simp] theorem latch_endOff (s : State) : (latch s).endOff = if streams s.length then blockLimit s.length else Config.freeWord s.free := (rfl)
@[simp] theorem latch_startAddr (s : State) : (latch s).startAddr = windowStart s := (rfl)
@[simp] theorem latch_len (s : State) : (latch s).len = s.length := (rfl)
@[simp] theorem latch_tier (s : State) : (latch s).tier = dispatch s.length := (rfl)
@[simp] theorem latch_memFault (s : State) : (latch s).memFault = s.memFault := (rfl)
@[simp] theorem latch_mem (s : State) : (latch s).mem = s.mem := (rfl)
@[simp] theorem latch_devices (s : State) : (latch s).devices = s.devices := (rfl)
@[simp] theorem latch_baseWritten (s : State) : (latch s).baseWritten = s.baseWritten := (rfl)
@[simp] theorem latch_offsetWritten (s : State) : (latch s).offsetWritten = s.offsetWritten := (rfl)
@[simp] theorem latch_lengthWritten (s : State) : (latch s).lengthWritten = s.lengthWritten := (rfl)
@[simp] theorem latch_stage (s : State) : (latch s).stage = s.stage := (rfl)
@[simp] theorem latch_free (s : State) : (latch s).free = if streams s.length then s.free else s.free + 1 := (rfl)
@[simp] theorem latch_agenda (s : State) : (latch s).agenda = s.agenda := (rfl)
@[simp] theorem latch_observed (s : State) : (latch s).observed = s.observed := (rfl)
@[simp] theorem latch_agent (s : State) : (latch s).agent = s.agent := (rfl)
@[simp] theorem latch_use (s : State) : (latch s).use = s.use := (rfl)

/-! ### releaseNa -/

@[simp] theorem releaseNa_base (s : State) : (releaseNa s).base = s.base := (rfl)
@[simp] theorem releaseNa_offset (s : State) : (releaseNa s).offset = s.offset := (rfl)
@[simp] theorem releaseNa_length (s : State) : (releaseNa s).length = s.length := (rfl)
@[simp] theorem releaseNa_busy (s : State) : (releaseNa s).busy = s.busy := (rfl)
@[simp] theorem releaseNa_done (s : State) : (releaseNa s).done = s.done := (rfl)
@[simp] theorem releaseNa_digest (s : State) : (releaseNa s).digest = s.digest := (rfl)
@[simp] theorem releaseNa_phase (s : State) : (releaseNa s).phase = s.phase := (rfl)
@[simp] theorem releaseNa_pos (s : State) : (releaseNa s).pos = s.pos := (rfl)
@[simp] theorem releaseNa_endOff (s : State) : (releaseNa s).endOff = s.endOff := (rfl)
@[simp] theorem releaseNa_startAddr (s : State) : (releaseNa s).startAddr = s.startAddr := (rfl)
@[simp] theorem releaseNa_len (s : State) : (releaseNa s).len = s.len := (rfl)
@[simp] theorem releaseNa_tier (s : State) : (releaseNa s).tier = s.tier := (rfl)
@[simp] theorem releaseNa_memFault (s : State) : (releaseNa s).memFault = s.memFault := (rfl)
@[simp] theorem releaseNa_mem (s : State) : (releaseNa s).mem = s.mem := (rfl)
@[simp] theorem releaseNa_devices (s : State) : (releaseNa s).devices = s.devices := (rfl)
@[simp] theorem releaseNa_baseWritten (s : State) : (releaseNa s).baseWritten = s.baseWritten := (rfl)
@[simp] theorem releaseNa_offsetWritten (s : State) : (releaseNa s).offsetWritten = s.offsetWritten := (rfl)
@[simp] theorem releaseNa_lengthWritten (s : State) : (releaseNa s).lengthWritten = s.lengthWritten := (rfl)
@[simp] theorem releaseNa_stage (s : State) : (releaseNa s).stage = s.stage := (rfl)
@[simp] theorem releaseNa_free (s : State) : (releaseNa s).free = s.free + 8 := (rfl)
@[simp] theorem releaseNa_agenda (s : State) : (releaseNa s).agenda = s.agenda := (rfl)
@[simp] theorem releaseNa_observed (s : State) : (releaseNa s).observed = s.observed := (rfl)
@[simp] theorem releaseNa_agent (s : State) : (releaseNa s).agent = s.agent := (rfl)
@[simp] theorem releaseNa_use (s : State) : (releaseNa s).use = s.use := (rfl)

/-! ### releaseUo -/

@[simp] theorem releaseUo_base (s : State) : (releaseUo s).base = s.base := (rfl)
@[simp] theorem releaseUo_offset (s : State) : (releaseUo s).offset = s.offset := (rfl)
@[simp] theorem releaseUo_length (s : State) : (releaseUo s).length = s.length := (rfl)
@[simp] theorem releaseUo_busy (s : State) : (releaseUo s).busy = s.busy := (rfl)
@[simp] theorem releaseUo_done (s : State) : (releaseUo s).done = s.done := (rfl)
@[simp] theorem releaseUo_digest (s : State) : (releaseUo s).digest = s.digest := (rfl)
@[simp] theorem releaseUo_phase (s : State) : (releaseUo s).phase = s.phase := (rfl)
@[simp] theorem releaseUo_pos (s : State) : (releaseUo s).pos = s.pos := (rfl)
@[simp] theorem releaseUo_endOff (s : State) : (releaseUo s).endOff = s.endOff := (rfl)
@[simp] theorem releaseUo_startAddr (s : State) : (releaseUo s).startAddr = s.startAddr := (rfl)
@[simp] theorem releaseUo_len (s : State) : (releaseUo s).len = s.len := (rfl)
@[simp] theorem releaseUo_tier (s : State) : (releaseUo s).tier = s.tier := (rfl)
@[simp] theorem releaseUo_memFault (s : State) : (releaseUo s).memFault = s.memFault := (rfl)
@[simp] theorem releaseUo_mem (s : State) : (releaseUo s).mem = s.mem := (rfl)
@[simp] theorem releaseUo_devices (s : State) : (releaseUo s).devices = s.devices := (rfl)
@[simp] theorem releaseUo_baseWritten (s : State) : (releaseUo s).baseWritten = s.baseWritten := (rfl)
@[simp] theorem releaseUo_offsetWritten (s : State) : (releaseUo s).offsetWritten = s.offsetWritten := (rfl)
@[simp] theorem releaseUo_lengthWritten (s : State) : (releaseUo s).lengthWritten = s.lengthWritten := (rfl)
@[simp] theorem releaseUo_stage (s : State) : (releaseUo s).stage = s.stage := (rfl)
@[simp] theorem releaseUo_free (s : State) : (releaseUo s).free = s.free + 9 := (rfl)
@[simp] theorem releaseUo_agenda (s : State) : (releaseUo s).agenda = s.agenda := (rfl)
@[simp] theorem releaseUo_observed (s : State) : (releaseUo s).observed = s.observed := (rfl)
@[simp] theorem releaseUo_agent (s : State) : (releaseUo s).agent = s.agent := (rfl)
@[simp] theorem releaseUo_use (s : State) : (releaseUo s).use = s.use := (rfl)

/-! ### resetCore -/

@[simp] theorem resetCore_base (s : State) : (resetCore s).base = 0 := (rfl)
@[simp] theorem resetCore_offset (s : State) : (resetCore s).offset = 0 := (rfl)
@[simp] theorem resetCore_length (s : State) : (resetCore s).length = 0 := (rfl)
@[simp] theorem resetCore_busy (s : State) : (resetCore s).busy = false := (rfl)
@[simp] theorem resetCore_done (s : State) : (resetCore s).done = false := (rfl)
@[simp] theorem resetCore_digest (s : State) : (resetCore s).digest = 0 := (rfl)
@[simp] theorem resetCore_work (s : State) : (resetCore s).work = Work.zero := (rfl)
@[simp] theorem resetCore_phase (s : State) : (resetCore s).phase = .idle := (rfl)
@[simp] theorem resetCore_pos (s : State) : (resetCore s).pos = 0 := (rfl)
@[simp] theorem resetCore_endOff (s : State) : (resetCore s).endOff = 0 := (rfl)
@[simp] theorem resetCore_startAddr (s : State) : (resetCore s).startAddr = 0 := (rfl)
@[simp] theorem resetCore_len (s : State) : (resetCore s).len = 0 := (rfl)
@[simp] theorem resetCore_tier (s : State) : (resetCore s).tier = .t0 := (rfl)
@[simp] theorem resetCore_memFault (s : State) : (resetCore s).memFault = false := (rfl)
@[simp] theorem resetCore_mem (s : State) : (resetCore s).mem = s.mem := (rfl)
@[simp] theorem resetCore_devices (s : State) : (resetCore s).devices = s.devices := (rfl)
@[simp] theorem resetCore_baseWritten (s : State) : (resetCore s).baseWritten = false := (rfl)
@[simp] theorem resetCore_offsetWritten (s : State) : (resetCore s).offsetWritten = false := (rfl)
@[simp] theorem resetCore_lengthWritten (s : State) : (resetCore s).lengthWritten = false := (rfl)
@[simp] theorem resetCore_stage (s : State) : (resetCore s).stage = .word 0 := (rfl)
@[simp] theorem resetCore_free (s : State) : (resetCore s).free = s.free := (rfl)
@[simp] theorem resetCore_agenda (s : State) : (resetCore s).agenda = s.agenda := (rfl)
@[simp] theorem resetCore_observed (s : State) : (resetCore s).observed = s.observed := (rfl)
@[simp] theorem resetCore_agent (s : State) : (resetCore s).agent = s.agent := (rfl)
@[simp] theorem resetCore_use (s : State) : (resetCore s).use = .free := (rfl)

/-- After `NA_FINAL` only `U` keeps its value (R21). -/
@[simp] theorem releaseNa_work_u (s : State) : (releaseNa s).work.u = s.work.u := (rfl)

/-! ### beginUse -/

@[simp] theorem beginUse_base (s : State) : (beginUse s).base = s.base := (rfl)
@[simp] theorem beginUse_offset (s : State) : (beginUse s).offset = s.offset := (rfl)
@[simp] theorem beginUse_length (s : State) : (beginUse s).length = s.length := (rfl)
@[simp] theorem beginUse_busy (s : State) : (beginUse s).busy = s.busy := (rfl)
@[simp] theorem beginUse_done (s : State) : (beginUse s).done = s.done := (rfl)
@[simp] theorem beginUse_digest (s : State) : (beginUse s).digest = s.digest := (rfl)
@[simp] theorem beginUse_work (s : State) : (beginUse s).work = s.work := (rfl)
@[simp] theorem beginUse_phase (s : State) : (beginUse s).phase = s.phase := (rfl)
@[simp] theorem beginUse_pos (s : State) : (beginUse s).pos = s.pos := (rfl)
@[simp] theorem beginUse_endOff (s : State) : (beginUse s).endOff = s.endOff := (rfl)
@[simp] theorem beginUse_startAddr (s : State) : (beginUse s).startAddr = s.startAddr := (rfl)
@[simp] theorem beginUse_len (s : State) : (beginUse s).len = s.len := (rfl)
@[simp] theorem beginUse_tier (s : State) : (beginUse s).tier = s.tier := (rfl)
@[simp] theorem beginUse_memFault (s : State) : (beginUse s).memFault = s.memFault := (rfl)
@[simp] theorem beginUse_mem (s : State) : (beginUse s).mem = s.mem := (rfl)
@[simp] theorem beginUse_devices (s : State) : (beginUse s).devices = s.devices := (rfl)
@[simp] theorem beginUse_baseWritten (s : State) : (beginUse s).baseWritten = s.baseWritten := (rfl)
@[simp] theorem beginUse_offsetWritten (s : State) : (beginUse s).offsetWritten = s.offsetWritten := (rfl)
@[simp] theorem beginUse_lengthWritten (s : State) : (beginUse s).lengthWritten = s.lengthWritten := (rfl)
@[simp] theorem beginUse_stage (s : State) : (beginUse s).stage = s.stage := (rfl)
@[simp] theorem beginUse_free (s : State) : (beginUse s).free = s.free := (rfl)
@[simp] theorem beginUse_agenda (s : State) : (beginUse s).agenda = s.agenda := (rfl)
@[simp] theorem beginUse_observed (s : State) : (beginUse s).observed = s.observed := (rfl)
@[simp] theorem beginUse_agent (s : State) : (beginUse s).agent = s.agent := (rfl)
@[simp] theorem beginUse_use (s : State) : (beginUse s).use = .operands := (rfl)

/-! ### useCommand -/

@[simp] theorem useCommand_base (s : State) : (useCommand s).base = s.base := (rfl)
@[simp] theorem useCommand_offset (s : State) : (useCommand s).offset = s.offset := (rfl)
@[simp] theorem useCommand_length (s : State) : (useCommand s).length = s.length := (rfl)
@[simp] theorem useCommand_busy (s : State) : (useCommand s).busy = s.busy := (rfl)
@[simp] theorem useCommand_done (s : State) : (useCommand s).done = s.done := (rfl)
@[simp] theorem useCommand_digest (s : State) : (useCommand s).digest = s.digest := (rfl)
@[simp] theorem useCommand_work (s : State) : (useCommand s).work = s.work := (rfl)
@[simp] theorem useCommand_phase (s : State) : (useCommand s).phase = s.phase := (rfl)
@[simp] theorem useCommand_pos (s : State) : (useCommand s).pos = s.pos := (rfl)
@[simp] theorem useCommand_endOff (s : State) : (useCommand s).endOff = s.endOff := (rfl)
@[simp] theorem useCommand_startAddr (s : State) : (useCommand s).startAddr = s.startAddr := (rfl)
@[simp] theorem useCommand_len (s : State) : (useCommand s).len = s.len := (rfl)
@[simp] theorem useCommand_tier (s : State) : (useCommand s).tier = s.tier := (rfl)
@[simp] theorem useCommand_memFault (s : State) : (useCommand s).memFault = s.memFault := (rfl)
@[simp] theorem useCommand_mem (s : State) : (useCommand s).mem = s.mem := (rfl)
@[simp] theorem useCommand_devices (s : State) : (useCommand s).devices = s.devices := (rfl)
@[simp] theorem useCommand_baseWritten (s : State) : (useCommand s).baseWritten = s.baseWritten := (rfl)
@[simp] theorem useCommand_offsetWritten (s : State) : (useCommand s).offsetWritten = s.offsetWritten := (rfl)
@[simp] theorem useCommand_lengthWritten (s : State) : (useCommand s).lengthWritten = s.lengthWritten := (rfl)
@[simp] theorem useCommand_stage (s : State) : (useCommand s).stage = s.stage := (rfl)
@[simp] theorem useCommand_free (s : State) : (useCommand s).free = s.free := (rfl)
@[simp] theorem useCommand_agenda (s : State) : (useCommand s).agenda = s.agenda := (rfl)
@[simp] theorem useCommand_observed (s : State) : (useCommand s).observed = s.observed := (rfl)
@[simp] theorem useCommand_agent (s : State) : (useCommand s).agent = s.agent := (rfl)
@[simp] theorem useCommand_use (s : State) : (useCommand s).use = if startIgnored s then s.use else .command := (rfl)

/-! ### endUse -/

@[simp] theorem endUse_base (s : State) : (endUse s).base = s.base := (rfl)
@[simp] theorem endUse_offset (s : State) : (endUse s).offset = s.offset := (rfl)
@[simp] theorem endUse_length (s : State) : (endUse s).length = s.length := (rfl)
@[simp] theorem endUse_busy (s : State) : (endUse s).busy = s.busy := (rfl)
@[simp] theorem endUse_done (s : State) : (endUse s).done = s.done := (rfl)
@[simp] theorem endUse_digest (s : State) : (endUse s).digest = s.digest := (rfl)
@[simp] theorem endUse_work (s : State) : (endUse s).work = s.work := (rfl)
@[simp] theorem endUse_phase (s : State) : (endUse s).phase = s.phase := (rfl)
@[simp] theorem endUse_pos (s : State) : (endUse s).pos = s.pos := (rfl)
@[simp] theorem endUse_endOff (s : State) : (endUse s).endOff = s.endOff := (rfl)
@[simp] theorem endUse_startAddr (s : State) : (endUse s).startAddr = s.startAddr := (rfl)
@[simp] theorem endUse_len (s : State) : (endUse s).len = s.len := (rfl)
@[simp] theorem endUse_tier (s : State) : (endUse s).tier = s.tier := (rfl)
@[simp] theorem endUse_memFault (s : State) : (endUse s).memFault = s.memFault := (rfl)
@[simp] theorem endUse_mem (s : State) : (endUse s).mem = s.mem := (rfl)
@[simp] theorem endUse_devices (s : State) : (endUse s).devices = s.devices := (rfl)
@[simp] theorem endUse_baseWritten (s : State) : (endUse s).baseWritten = s.baseWritten := (rfl)
@[simp] theorem endUse_offsetWritten (s : State) : (endUse s).offsetWritten = s.offsetWritten := (rfl)
@[simp] theorem endUse_lengthWritten (s : State) : (endUse s).lengthWritten = s.lengthWritten := (rfl)
@[simp] theorem endUse_stage (s : State) : (endUse s).stage = s.stage := (rfl)
@[simp] theorem endUse_free (s : State) : (endUse s).free = s.free := (rfl)
@[simp] theorem endUse_agenda (s : State) : (endUse s).agenda = s.agenda := (rfl)
@[simp] theorem endUse_observed (s : State) : (endUse s).observed = s.observed := (rfl)
@[simp] theorem endUse_agent (s : State) : (endUse s).agent = s.agent := (rfl)
@[simp] theorem endUse_use (s : State) : (endUse s).use = if s.use = .command then .free else s.use := (rfl)

/-! ### observe -/

@[simp] theorem observe_base (r : CReg) (v : U64) (s : State) : (observe r v s).base = s.base := (rfl)
@[simp] theorem observe_offset (r : CReg) (v : U64) (s : State) : (observe r v s).offset = s.offset := (rfl)
@[simp] theorem observe_length (r : CReg) (v : U64) (s : State) : (observe r v s).length = s.length := (rfl)
@[simp] theorem observe_busy (r : CReg) (v : U64) (s : State) : (observe r v s).busy = s.busy := (rfl)
@[simp] theorem observe_done (r : CReg) (v : U64) (s : State) : (observe r v s).done = s.done := (rfl)
@[simp] theorem observe_digest (r : CReg) (v : U64) (s : State) : (observe r v s).digest = s.digest := (rfl)
@[simp] theorem observe_work (r : CReg) (v : U64) (s : State) : (observe r v s).work = s.work := (rfl)
@[simp] theorem observe_phase (r : CReg) (v : U64) (s : State) : (observe r v s).phase = s.phase := (rfl)
@[simp] theorem observe_pos (r : CReg) (v : U64) (s : State) : (observe r v s).pos = s.pos := (rfl)
@[simp] theorem observe_endOff (r : CReg) (v : U64) (s : State) : (observe r v s).endOff = s.endOff := (rfl)
@[simp] theorem observe_startAddr (r : CReg) (v : U64) (s : State) : (observe r v s).startAddr = s.startAddr := (rfl)
@[simp] theorem observe_len (r : CReg) (v : U64) (s : State) : (observe r v s).len = s.len := (rfl)
@[simp] theorem observe_tier (r : CReg) (v : U64) (s : State) : (observe r v s).tier = s.tier := (rfl)
@[simp] theorem observe_memFault (r : CReg) (v : U64) (s : State) : (observe r v s).memFault = s.memFault := (rfl)
@[simp] theorem observe_mem (r : CReg) (v : U64) (s : State) : (observe r v s).mem = s.mem := (rfl)
@[simp] theorem observe_devices (r : CReg) (v : U64) (s : State) : (observe r v s).devices = s.devices := (rfl)
@[simp] theorem observe_baseWritten (r : CReg) (v : U64) (s : State) : (observe r v s).baseWritten = s.baseWritten := (rfl)
@[simp] theorem observe_offsetWritten (r : CReg) (v : U64) (s : State) : (observe r v s).offsetWritten = s.offsetWritten := (rfl)
@[simp] theorem observe_lengthWritten (r : CReg) (v : U64) (s : State) : (observe r v s).lengthWritten = s.lengthWritten := (rfl)
@[simp] theorem observe_stage (r : CReg) (v : U64) (s : State) : (observe r v s).stage = s.stage := (rfl)
@[simp] theorem observe_free (r : CReg) (v : U64) (s : State) : (observe r v s).free = s.free := (rfl)
@[simp] theorem observe_agenda (r : CReg) (v : U64) (s : State) : (observe r v s).agenda = s.agenda := (rfl)
@[simp] theorem observe_observed (r : CReg) (v : U64) (s : State) : (observe r v s).observed = s.observed ++ [(r, v)] := (rfl)
@[simp] theorem observe_agent (r : CReg) (v : U64) (s : State) : (observe r v s).agent = s.agent := (rfl)
@[simp] theorem observe_use (r : CReg) (v : U64) (s : State) : (observe r v s).use = s.use := (rfl)

end Sys2Proof.Machine
end

