-- ==== Sys2Proof/Laws/Ops.lean ====
section
/-! SUPPORT. What each shared operation can do, said once: proofs cite these and do not unfold the operation. -/

namespace Sys2Proof.Machine

/-- A bind of a successful read. -/
@[simp] theorem except_ok_bind {ε α β : Type} (a : α) (f : α → Except ε β) :
    (Except.ok a >>= f) = f a := rfl

/-- A bind of a refused read. -/
@[simp] theorem except_error_bind {ε α β : Type} (e : ε) (f : α → Except ε β) :
    (Except.error e >>= f) = Except.error e := rfl

@[simp] theorem except_pure {ε α : Type} (a : α) : (pure a : Except ε α) = Except.ok a := rfl

@[simp] theorem except_map_ok {ε α β : Type} (f : α → β) (a : α) :
    (Except.ok a : Except ε α).map f = Except.ok (f a) := rfl

@[simp] theorem except_map_error {ε α β : Type} (f : α → β) (e : ε) :
    (Except.error e : Except ε α).map f = Except.error e := rfl

/-- A mapped read succeeds where the read does. -/
theorem except_map_eq_ok {ε α β : Type} {f : α → β} {r : Except ε α} {b : β} (h : r.map f = .ok b) :
    ∃ a, r = .ok a ∧ b = f a := by
  cases r with
  | ok a => exact ⟨a, rfl, (Except.ok.inj h).symm⟩
  | error e => cases h

@[simp] theorem commit_ok (s t : State) : commit s (.ok t) = t := rfl

@[simp] theorem commit_error (s : State) (a : Addr) : commit s (.error a) = recordMemFault s := rfl

/-- A committed step has its whole effect, or only the recorded MemFault (R221). -/
theorem commit_cases (s : State) (r : Except Addr State) :
    (∃ t, r = .ok t ∧ commit s r = t) ∨ (∃ a, r = .error a ∧ commit s r = recordMemFault s) := by
  cases r with
  | ok t => exact .inl ⟨t, rfl, rfl⟩
  | error a => exact .inr ⟨a, rfl, rfl⟩

/-- What a sequencer step answers with a next state says. -/
theorem sequencerStep_next {s t : State} {e : Bool} {r : Except Addr State}
    (h : sequencerStep s e r = .next t) : e = true ∧ s.memFault = false ∧ t = commit s r := by
  unfold sequencerStep at h
  split at h
  · rename_i hc
    simp only [Bool.and_eq_true, Bool.not_eq_true'] at hc
    exact ⟨hc.1, hc.2, (Host.Outcome.next.inj h).symm⟩
  · cases h

/-- An enabled sequencer step answers with a next state. -/
theorem sequencerStep_enabled {s : State} {e : Bool} (r : Except Addr State) (he : e = true)
    (hf : s.memFault = false) : sequencerStep s e r = .next (commit s r) := by
  simp [sequencerStep, he, hf]

/-- What a fetching stage answers with a next state says. -/
theorem fetchingStage_next {s t : State} {i : Len} {size : Nat} {r : Except Addr State}
    (h : fetchingStage s i size r = .next t) :
    s.phase ≠ .idle ∧ s.memFault = false ∧ i.toNat + size ≤ s.len.toNat ∧ t = commit s r := by
  unfold fetchingStage at h
  split at h
  · cases h
  · split at h
    · cases h
    · rename_i hw hi
      simp only [windowOpen, Bool.not_eq_true', Bool.not_eq_false, Bool.and_eq_true,
        decide_eq_true_eq] at hw
      simp only [offsetInWindow, Bool.not_eq_true', Bool.not_eq_false, decide_eq_true_eq] at hi
      exact ⟨hw.1, hw.2, hi, (Host.Outcome.next.inj h).symm⟩

/-- A fetching stage with an open window and an operand inside it answers with a next state. -/
theorem fetchingStage_enabled {s : State} {i : Len} {size : Nat} (r : Except Addr State)
    (hp : s.phase ≠ .idle) (hf : s.memFault = false) (hi : i.toNat + size ≤ s.len.toNat) :
    fetchingStage s i size r = .next (commit s r) := by
  simp [fetchingStage, windowOpen, offsetInWindow, hp, hf, hi]

/-- What a selected routine answers with a next state says. -/
theorem selectedRoutine_next {s t : State} {lo hi : Nat} {r : Except Addr U64}
    (h : selectedRoutine s lo hi r = .next t) :
    s.phase ≠ .idle ∧ s.memFault = false ∧ lo ≤ s.len.toNat ∧ s.len.toNat ≤ hi ∧
      t = commit s (r.map fun v => setStage (.word v) s) := by
  unfold selectedRoutine at h
  split at h
  · cases h
  · split at h
    · cases h
    · rename_i hw hl
      simp only [windowOpen, Bool.not_eq_true', Bool.not_eq_false, Bool.and_eq_true,
        decide_eq_true_eq] at hw
      simp only [lengthIn, Bool.not_eq_true', Bool.not_eq_false, Bool.and_eq_true,
        decide_eq_true_eq] at hl
      exact ⟨hw.1, hw.2, hl.1, hl.2, (Host.Outcome.next.inj h).symm⟩

/-- A selected routine with an open window and a length of its range answers with a next state. -/
theorem selectedRoutine_enabled {s : State} {lo hi : Nat} (r : Except Addr U64)
    (hp : s.phase ≠ .idle) (hf : s.memFault = false) (hl : lo ≤ s.len.toNat) (hh : s.len.toNat ≤ hi) :
    selectedRoutine s lo hi r = .next (commit s (r.map fun v => setStage (.word v) s)) := by
  simp [selectedRoutine, stageWord, windowOpen, lengthIn, hp, hf, hl, hh]

/-- The refusals of a launch are exactly the breaches of the host's contract. -/
theorem launchRefusal_eq_none (s : State) : launchRefusal s = none ↔
    (s.baseWritten = true ∧ s.offsetWritten = true ∧ s.lengthWritten = true) ∧
      windowWraps s = false ∧ windowTouchesDevice s = false := by
  unfold launchRefusal
  cases s.baseWritten <;> cases s.offsetWritten <;> cases s.lengthWritten <;> cases windowWraps s <;>
    cases windowTouchesDevice s <;> simp

/-- What `START_ACCEPT` answers with a next state says: the START was ignored, or the launch was accepted. -/
theorem startAccept_next {s t : State} (h : startAccept s = .next t) :
    (startIgnored s = true ∧ t = s) ∨
      (s.phase = .idle ∧ s.memFault = false ∧ launchRefusal s = none ∧ t = accept (latch s)) := by
  unfold startAccept at h
  split at h
  · rename_i hi
    exact .inl ⟨hi, (Host.Outcome.next.inj h).symm⟩
  · rename_i hi
    simp only [startIgnored, Bool.or_eq_true, decide_eq_true_eq, not_or, not_not,
      Bool.not_eq_true] at hi
    split at h
    · cases h
    · rename_i hn
      exact .inr ⟨hi.1, hi.2, hn, (Host.Outcome.next.inj h).symm⟩

/-- The step with nothing pending. -/
theorem step_quiet {s : State} (h : s.agenda = []) (hf : s.memFault = false) : step s = coreTurn s := by
  unfold step nextStep
  simp [h, hf]

end Sys2Proof.Machine
end

