-- ==== Sys2Proof/Laws/Values.lean ====
section
/-! SUPPORT. The values the formulas form: rotates, the weak pair, the little-endian sum, the latches. -/

namespace Sys2Proof.Machine

/-- The spec's rotate is the rotate of bit vectors, for every count a stage has. -/
theorem rotr_eq_rotateRight (v : U64) {r : Nat} (h : r < 64) : rotr v r = v.rotateRight r := by
  unfold rotr
  split
  · subst_vars
    simp [BitVec.rotateRight, BitVec.rotateRightAux]
  · simp [BitVec.rotateRight, BitVec.rotateRightAux, Nat.mod_eq_of_lt h]

/-- The weak pair without its intermediate assignments. -/
theorem weakPair_eq (w x y z a b : U64) : weakPair w x y z a b =
    (a + w + x + y + z, (b + a + w + z).rotateRight 21 + (a + w + x + y).rotateRight 44 + a + w) := by
  simp [weakPair, rotr_eq_rotateRight, BitVec.add_assoc]

/-- The value of a byte list is the sum of R53, modulo 2^64. -/
theorem leU64_toNat (bs : List Byte) : (leU64 bs).toNat =
    ((List.range bs.length).map fun k => (bs.getD k 0).toNat * 2 ^ (8 * k)).sum % 2 ^ 64 := by
  induction bs with
  | nil => rfl
  | cons b bs ih =>
    have hor : b.setWidth 64 ||| (leU64 bs <<< 8) = b.setWidth 64 + (leU64 bs <<< 8) := by
      rw [BitVec.add_eq_or_of_and_eq_zero]
      apply BitVec.eq_of_getLsbD_eq
      intro i hi
      simp only [BitVec.getLsbD_and, BitVec.getLsbD_setWidth, BitVec.getLsbD_shiftLeft]
      by_cases h : i < 8
      · simp [h]
      · simp [BitVec.getLsbD_of_ge b i (by omega)]
    have hsum : ((fun k => ((b :: bs).getD k 0).toNat * 2 ^ (8 * k)) ∘ Nat.succ) =
        fun k => 256 * ((bs.getD k 0).toNat * 2 ^ (8 * k)) := by
      funext k
      simp [Nat.mul_add, Nat.pow_add]
      ring
    rw [List.length_cons, List.range_succ_eq_map, List.map_cons, List.map_map, List.sum_cons, hsum,
      List.sum_map_mul_left, leU64, hor, BitVec.toNat_add, BitVec.toNat_shiftLeft, ih]
    simp only [BitVec.toNat_setWidth, Nat.shiftLeft_eq, List.getD_cons_zero]
    have := b.isLt
    omega

/-- `END` of a streaming length, as a number. -/
theorem blockLimit_toNat {n : Len} (h : 1 ≤ n.toNat) : (blockLimit n).toNat = (n.toNat - 1) / 64 * 64 := by
  have e : (n - 1).toNat = n.toNat - 1 := by bv_omega
  have := n.isLt
  simp only [blockLimit]
  rw [BitVec.toNat_mul, BitVec.toNat_udiv, e]
  simp
  omega

/-- The offset of the last block, as a number. -/
theorem lastOffset_toNat {n : Len} (h : 64 ≤ n.toNat) : (lastOffset n).toNat = n.toNat - 64 := by
  unfold lastOffset
  bv_omega

/-- The tail length as a remainder. -/
theorem tailLength_eq {n : Len} (h : 1 ≤ n.toNat) : tailLength n = BitVec.ofNat 64 ((n.toNat - 1) % 64) := by
  apply BitVec.eq_of_toNat_eq
  simp only [tailLength, BitVec.toNat_and]
  rw [show (n - 1).toNat = n.toNat - 1 by bv_omega, show BitVec.toNat (63 : BitVec 64) = 2 ^ 6 - 1 from rfl,
    Nat.and_two_pow_sub_one_eq_mod, BitVec.toNat_ofNat]
  omega

/-- The lengths of each tier. -/
theorem dispatch_eq (n : Len) :
    (n.toNat ≤ 16 ∧ dispatch n = .t0) ∨ (16 < n.toNat ∧ n.toNat ≤ 32 ∧ dispatch n = .t1) ∨
      (32 < n.toNat ∧ n.toNat ≤ 64 ∧ dispatch n = .t2) ∨ (64 < n.toNat ∧ n.toNat ≤ 96 ∧ dispatch n = .t3) ∨
      (96 < n.toNat ∧ n.toNat ≤ 256 ∧ dispatch n = .na) ∨ (256 < n.toNat ∧ dispatch n = .uo) := by
  unfold dispatch
  split_ifs <;> simp only [and_false, false_or, or_false, and_true] <;> omega

end Sys2Proof.Machine
end

