-- ==== Sys2Proof/Laws/Invariant.lean ====
section
/-! SUPPORT. What each named update of the state does to the machine invariant. -/

namespace Sys2Proof.Machine

variable {s : State}

theorem MachineInv.recordMemFault (h : MachineInv s) (hp : s.phase ≠ .idle) : MachineInv (recordMemFault s) :=
  ⟨h.1, h.2, h.3, fun _ => hp, h.5, h.6, h.7, h.8, h.9, h.10⟩

theorem MachineInv.setStage (h : MachineInv s) (r : StageResult) : MachineInv (setStage r s) :=
  ⟨h.1, h.2, h.3, h.4, h.5, h.6, h.7, h.8, h.9, h.10⟩

theorem MachineInv.setWork (h : MachineInv s) (w : Work) : MachineInv (setWork w s) :=
  ⟨h.1, h.2, h.3, h.4, h.5, h.6, h.7, h.8, h.9, h.10⟩

theorem MachineInv.releaseNa (h : MachineInv s) : MachineInv (releaseNa s) :=
  ⟨h.1, h.2, h.3, h.4, h.5, h.6, h.7, h.8, h.9, h.10⟩

theorem MachineInv.releaseUo (h : MachineInv s) : MachineInv (releaseUo s) :=
  ⟨h.1, h.2, h.3, h.4, h.5, h.6, h.7, h.8, h.9, h.10⟩

theorem MachineInv.agenda (h : MachineInv s) (l : List Event) : MachineInv { s with agenda := l } :=
  ⟨h.1, h.2, h.3, h.4, h.5, h.6, h.7, h.8, h.9, h.10⟩

theorem MachineInv.agentUse (h : MachineInv s) (n : Nat) (u : Use) : MachineInv { s with agent := n, use := u } :=
  ⟨h.1, h.2, h.3, h.4, h.5, h.6, h.7, h.8, h.9, h.10⟩

theorem MachineInv.observe (h : MachineInv s) (r : CReg) (v : U64) : MachineInv (observe r v s) :=
  ⟨h.1, h.2, h.3, h.4, h.5, h.6, h.7, h.8, h.9, h.10⟩

theorem MachineInv.complete (h : MachineInv s) (hf : s.memFault = false) (d : U64) : MachineInv (complete d s) := by
  constructor <;> simp [h.memCanonical, hf]

/-- The command accepted is one whose window fits, with the latches of its length. -/
theorem MachineInv.accept (h : MachineInv s) (hf : s.memFault = false) (hn : launchRefusal s = none) :
    MachineInv (accept (latch s)) := by
  rw [launchRefusal_eq_none] at hn
  constructor <;> simp [h.memCanonical, hf]
  · intro h97
    simp [streams, h97, blockLimit_toNat (n := s.length) (by omega)]
  · intro h0
    have hw := hn.2.1
    simp [windowWraps, h0] at hw
    simp [windowStart, BitVec.toNat_add]
    have h0' : s.length.toNat ≠ 0 := by bv_omega
    have := Nat.mod_le (s.base.toNat + s.offset.toNat) (2 ^ 64)
    omega

/-- A running command of a streaming tier has a length from 97 on. -/
theorem MachineInv.streaming_length (h : MachineInv s) (hp : s.phase ≠ .idle) (ht : s.tier = .na ∨ s.tier = .uo) :
    97 ≤ s.len.toNat := by
  have hd := h.tierOfLength hp
  rcases dispatch_eq s.len with ⟨-, e⟩ | ⟨-, -, e⟩ | ⟨-, -, e⟩ | ⟨-, -, e⟩ | ⟨hl, -⟩ | ⟨hl, -⟩
  all_goals first
    | omega
    | (rw [hd, e] at ht; simp at ht)

theorem MachineInv.enterLoop (h : MachineInv s) (hp : s.phase = .init) (ht : s.tier = .na ∨ s.tier = .uo) (w : Work) :
    MachineInv (enterLoop (Machine.setWork w s)) := by
  have hrun : s.phase ≠ .idle := by simp [hp]
  have h97 := h.streaming_length hrun ht
  have he := h.endOfLength hrun h97
  refine ⟨h.memCanonical, by simp [h.busyIsRunning, hp], h.notBusyAndDone, by simp, fun _ => h.tierOfLength hrun,
    fun _ => h97, fun _ => h.endOfLength hrun, fun _ => ⟨rfl, ?_⟩, by simp, fun _ => h.windowFits hrun⟩
  show 0 < s.endOff.toNat
  omega

theorem MachineInv.advanceBlock (h : MachineInv s) (hp : s.phase = .block) : MachineInv (advanceBlock s) := by
  have hrun : s.phase ≠ .idle := by simp [hp]
  have h97 := h.loopIsStreaming (.inl hp)
  have he := h.endOfLength hrun h97
  have hpos := h.posInLoop hp
  have hlt := s.len.isLt
  have e : (s.pos + 64).toNat = s.pos.toNat + 64 := by bv_omega
  have hphase : (Machine.advanceBlock s).phase ≠ .idle := by
    rw [advanceBlock_phase]
    split
    · simp
    · exact hrun
  refine ⟨h.memCanonical, ?_, h.notBusyAndDone, fun _ => hphase, fun _ => h.tierOfLength hrun, fun _ => h97,
    fun _ => h.endOfLength hrun, ?_, ?_, fun _ => h.windowFits hrun⟩
  · rw [advanceBlock_busy, h.busyIsRunning]
    exact ⟨fun _ => hphase, fun _ => hrun⟩
  · rw [advanceBlock_phase, advanceBlock_pos, advanceBlock_endOff]
    split
    · intro hc
      cases hc
    · rename_i hne
      intro _
      rw [← BitVec.toNat_inj] at hne
      rw [e] at hne ⊢
      omega
  · rw [advanceBlock_phase, advanceBlock_pos, advanceBlock_endOff]
    split
    · intro _
      assumption
    · rw [hp]
      intro hc
      cases hc

end Sys2Proof.Machine
end

