-- ==== Sys2Proof/Laws/Window.lean ====
section
/-! SUPPORT. Reads of a held window: what each fetch returns when the memory holds the window's bytes. -/

namespace Sys2Proof.Machine

/-- A read inside a held window gives the window's bytes. -/
theorem memRead_of_holds {m : Memory} {a : Addr} {B : List Byte} (h : WindowHolds m a B) (i : Len) (n : Nat)
    (hi : i.toNat + n ≤ B.length) : memRead m (a + i) n = .ok (wordOf B i.toNat n) := by
  have hr : readBytes m (a + i) n = .ok ((B.drop i.toNat).take n) := by
    refine readBytes_of_holds (by simp; omega) ?_
    intro k hk
    have hs : a + i + BitVec.ofNat 64 k = a + BitVec.ofNat 64 (i.toNat + k) := by
      rw [BitVec.ofNat_add, BitVec.ofNat_toNat, BitVec.setWidth_eq, BitVec.add_assoc]
    rw [hs, h (i.toNat + k) (by omega), List.getElem?_take_of_lt hk, List.getElem?_drop]
  unfold memRead
  rw [hr]
  rfl

variable {s : State} {B : List Byte}

theorem fetch8_of_holds (h : WindowHolds s.mem s.startAddr B) (i : Len) (hi : i.toNat + 1 ≤ B.length) :
    fetch8 s i = .ok (wordOf B i.toNat 1) := memRead_of_holds h i 1 hi

theorem fetch32_of_holds (h : WindowHolds s.mem s.startAddr B) (i : Len) (hi : i.toNat + 4 ≤ B.length) :
    fetch32 s i = .ok (wordOf B i.toNat 4) := memRead_of_holds h i 4 hi

theorem fetch64_of_holds (h : WindowHolds s.mem s.startAddr B) (i : Len) (hi : i.toNat + 8 ≤ B.length) :
    fetch64 s i = .ok (wordOf B i.toNat 8) := memRead_of_holds h i 8 hi

theorem toNat_add_of_le {i : Len} {d n : Nat} (h : i.toNat + d ≤ n) (hn : n < 2 ^ 64) :
    (i + BitVec.ofNat 64 d).toNat = i.toNat + d := by
  rw [BitVec.toNat_add, BitVec.toNat_ofNat, Nat.add_mod_mod, Nat.mod_eq_of_lt (by omega)]

/-- A 32-byte window inside a held window. -/
theorem fetchQuad_of_holds (h : WindowHolds s.mem s.startAddr B) (hB : B.length < 2 ^ 64) (o : Len)
    (ho : o.toNat + 32 ≤ B.length) : fetchQuad s o = .ok (quadOf B o.toNat) := by
  have e1 : (o + 8).toNat = o.toNat + 8 := toNat_add_of_le (d := 8) (n := B.length) (by omega) hB
  have e2 : (o + 16).toNat = o.toNat + 16 := toNat_add_of_le (d := 16) (n := B.length) (by omega) hB
  have e3 : (o + 24).toNat = o.toNat + 24 := toNat_add_of_le (d := 24) (n := B.length) (by omega) hB
  unfold fetchQuad
  rw [fetch64_of_holds h o (by omega), fetch64_of_holds h (o + 8) (by omega),
    fetch64_of_holds h (o + 16) (by omega), fetch64_of_holds h (o + 24) (by omega), e1, e2, e3]
  rfl

/-- A 64-byte block inside a held window. -/
theorem fetchBlock_of_holds (h : WindowHolds s.mem s.startAddr B) (hB : B.length < 2 ^ 64) (p : Len)
    (hp : p.toNat + 64 ≤ B.length) : fetchBlock s p = .ok (blockOf B p.toNat) := by
  have e : (p + 32).toNat = p.toNat + 32 := toNat_add_of_le (d := 32) (n := B.length) (by omega) hB
  unfold fetchBlock
  rw [fetchQuad_of_holds h hB p (by omega), fetchQuad_of_holds h hB (p + 32) (by omega), e]
  rfl

end Sys2Proof.Machine
end

