-- ==== Sys2Proof/Laws/Launch.lean ====
section
/-! SUPPORT. What a launch that meets the contract does. -/

namespace Sys2Proof.Machine

variable {s : State}

/-- Nothing of the contract is broken. -/
theorem launchRefusal_of_ready (h : LaunchReady s) : launchRefusal s = none := by
  rw [launchRefusal_eq_none]
  refine ⟨⟨h.baseWritten, h.offsetWritten, h.lengthWritten⟩, ?_, ?_⟩
  · unfold windowWraps
    by_cases h0 : s.length = 0
    · simp [h0]
    · have := h.fits h0
      simp only [Bool.and_eq_false_iff, decide_eq_false_iff_not]
      omega
  · unfold windowTouchesDevice
    rw [List.any_eq_false]
    intro d hd
    simp only [decide_eq_true_eq, not_lt]
    by_contra hc
    refine h.noDevice d hd (max d.1 (windowStart s).toNat) (by simp [windowStart]) ?_ ⟨by omega, by omega⟩
    unfold windowStart at hc ⊢
    omega

/-- `START_ACCEPT` latches and accepts. -/
theorem startAccept_of_ready (h : LaunchReady s) : startAccept s = .next (accept (latch s)) := by
  simp [startAccept, startIgnored, h.idle, h.noFault, launchRefusal_of_ready h]

/-- `HASH64` is the whole command after the acceptance. -/
theorem execHash64_of_ready (h : LaunchReady s) : execHash64 s = .next (runCommand (accept (latch s))) := by
  have hi : startIgnored s = false := by simp [startIgnored, h.idle, h.noFault]
  simp [execHash64, hi, startAccept_of_ready h]

/-- After the acceptance the command runs on the window of the operands. -/
theorem running_of_ready {B : List Byte} (h : LaunchReady s) (hl : s.length.toNat = B.length)
    (hw : WindowHolds s.mem (s.base + s.offset) B) : Running (accept (latch s)) B :=
  ⟨by simp, by simp [h.noFault], by simp [hl], hw⟩

/-- A running window is shorter than the address space. -/
theorem Running.length_lt {B : List Byte} (h : Running s B) : B.length < 2 ^ 64 := by
  have := h.size
  have := s.len.isLt
  omega

/-- A step that leaves phase, fault and window alone keeps the command running. -/
theorem Running.of_same {t : State} {B : List Byte} (h : Running s B) (h1 : t.phase ≠ .idle)
    (h2 : t.memFault = s.memFault) (h3 : t.len = s.len) (h4 : t.mem = s.mem) (h5 : t.startAddr = s.startAddr) :
    Running t B :=
  ⟨h1, by rw [h2, h.noFault], by rw [h3, h.size], by rw [h4, h5]; exact h.holds⟩

end Sys2Proof.Machine
end

