-- ==== Sys2Proof/Laws/Steps.lean ====
section
/-! SUPPORT. What each sequencer step can do, said once: if its reads succeed, then exactly this state. Proofs
rewrite with these and the field lemmas of Laws/State.lean, and never unfold a register update. -/

namespace Sys2Proof.Machine

variable {s t : State}

theorem naInit_ok (h : naInit s = .ok t) :
    ∃ first, fetch64 s 0 = .ok first ∧ t = enterLoop (setWork (naSeed first s.work) s) :=
  except_map_eq_ok h

theorem naBlock_ok (h : naBlock s = .ok t) :
    ∃ b, fetchBlock s s.pos = .ok b ∧ t = advanceBlock (setWork (naMix b s.work) s) :=
  except_map_eq_ok h

theorem naFinal_ok (h : naFinal s = .ok t) :
    ∃ b, fetchBlock s (lastOffset s.len) = .ok b ∧
      t = releaseNa (complete (naDigest (naFinalMix (tailLength s.len) b s.work)) s) :=
  except_map_eq_ok h

theorem uoInit_ok (h : uoInit s = .ok t) : t = enterLoop (setWork uoSeed s) := (Except.ok.inj h).symm

theorem uoBlock_ok (h : uoBlock s = .ok t) :
    ∃ b, fetchBlock s s.pos = .ok b ∧ t = advanceBlock (setWork (uoMix b s.work) s) :=
  except_map_eq_ok h

theorem uoFinal_ok (h : uoFinal s = .ok t) :
    ∃ b, fetchBlock s (lastOffset s.len) = .ok b ∧
      t = releaseUo (complete (uoDigest (uoFinalMix (tailLength s.len) b s.work)) s) :=
  except_map_eq_ok h

/-- A block step of either tier moves the sequencer as R32 says and touches only the working registers beside it. -/
theorem block_moves_on {block : State → Except Addr State} (hb : block = naBlock ∨ block = uoBlock)
    (h : block s = .ok t) : ∃ w, t = advanceBlock (setWork w s) := by
  obtain rfl | rfl := hb
  · obtain ⟨b, -, e⟩ := naBlock_ok h
    exact ⟨_, e⟩
  · obtain ⟨b, -, e⟩ := uoBlock_ok h
    exact ⟨_, e⟩

/-- `U` and `MUL` are no operands of the NA block (spec/10_state.md R21): they pass through it. -/
theorem naMix_with_u_mul (b : Block) (w : Work) (u m : U64) :
    naMix b { w with u := u, mul := m } = { naMix b w with u := u, mul := m } := rfl

/-- The NA seeds are written over any registers alike. -/
theorem naSeed_with_u_mul (first : U64) (w : Work) (u m : U64) :
    naSeed first { w with u := u, mul := m } = { naSeed first w with u := u, mul := m } := rfl

/-- The final NA pass sets `MUL` itself and passes `U` through. -/
theorem naFinalMix_with_u_mul (tail : U64) (b : Block) (w : Work) (u m : U64) :
    naFinalMix tail b { w with u := u, mul := m } = { naFinalMix tail b w with u := u } := rfl

/-- `RUN_TIER` either completes with a value of a routine or seeds a streaming tier. -/
theorem runTier_ok (h : runTier s = .ok t) :
    (∃ d, t = complete d s) ∨ (s.tier = .na ∧ naInit s = .ok t) ∨ (s.tier = .uo ∧ uoInit s = .ok t) := by
  unfold runTier at h
  split at h
  · obtain ⟨d, -, e⟩ := except_map_eq_ok h
    exact .inl ⟨d, e⟩
  · obtain ⟨d, -, e⟩ := except_map_eq_ok h
    exact .inl ⟨d, e⟩
  · obtain ⟨d, -, e⟩ := except_map_eq_ok h
    exact .inl ⟨d, e⟩
  · obtain ⟨d, -, e⟩ := except_map_eq_ok h
    exact .inl ⟨d, e⟩
  · exact .inr (.inl ⟨by assumption, h⟩)
  · exact .inr (.inr ⟨by assumption, h⟩)

/-- One step of a run. -/
theorem runSteps_succ {k : Nat} (h : step s = .next t) : runSteps (k + 1) s = runSteps k t := by
  have key : ∀ (M : Host.Core) {u v : M.State}, M.step u = .next v → M.run (k + 1) u = M.run k v := by
    intro M u v hm
    simp only [Host.Core.run, hm]
  exact key Sys2Proof.core h

@[simp] theorem runSteps_zero (s : State) : runSteps 0 s = .next s := rfl

/-- A run in two parts. -/
theorem runSteps_add {k j : Nat} (h : runSteps k s = .next t) : runSteps (k + j) s = runSteps j t := by
  have key : ∀ (M : Host.Core) (k : Nat) (u v : M.State), M.run k u = .next v → M.run (k + j) u = M.run j v := by
    intro M k
    induction k with
    | zero =>
      intro u v hm
      cases hm
      rw [Nat.zero_add]
    | succ k ih =>
      intro u v hm
      rw [Nat.add_right_comm]
      simp only [Host.Core.run] at hm ⊢
      split at hm
      · exact ih _ _ hm
      · cases hm
      · cases hm
  exact key Sys2Proof.core k s t h

end Sys2Proof.Machine
end

