-- ==== Sys2Proof/Laws/Streams.lean ====
section
/-! SUPPORT. The loop of a streaming tier over a held window: what `k` block steps leave. -/

namespace Sys2Proof.Machine

/-- The state at the end of the loop. -/
def loopDone (w : Work) (s : State) : State := { s with work := w, pos := s.endOff, phase := .final }

theorem loopDone_advanceBlock (w v : Work) (s : State) : loopDone w (advanceBlock (setWork v s)) = loopDone w s := rfl

theorem loopDone_enterLoop (w v : Work) (s : State) : loopDone w (enterLoop (setWork v s)) = loopDone w s := rfl

theorem advanceBlock_last (w : Work) (s : State) (h : s.pos + 64 = s.endOff) :
    advanceBlock (setWork w s) = loopDone w s := by
  unfold advanceBlock loopDone setWork
  simp only [h, if_true]

/-- Over a held window the block steps of a tier absorb every block from `POS` to `END`. -/
theorem runBlocks_of_holds (block : State → Except Addr State) (mix : Block → Work → Work)
    (hblock : ∀ s, block s = (fetchBlock s s.pos).map fun b => advanceBlock (setWork (mix b s.work) s))
    (B : List Byte) (k : Nat) (s : State) (h : Running s B) (hp : s.phase = .block)
    (hk : s.pos.toNat + 64 * (k + 1) = s.endOff.toNat) (hB : s.endOff.toNat ≤ B.length) :
    runBlocks block (k + 1) s = loopDone (absorbBlocks mix B (k + 1) s.pos.toNat s.work) s := by
  induction k generalizing s with
  | zero =>
    have e : s.pos + 64 = s.endOff := by
      apply BitVec.eq_of_toNat_eq
      have := s.endOff.isLt
      bv_omega
    simp only [runBlocks, hblock, fetchBlock_of_holds h.holds h.length_lt s.pos (by omega), except_map_ok, absorbBlocks]
    exact advanceBlock_last _ _ e
  | succ k ih =>
    have e : (s.pos + 64).toNat = s.pos.toNat + 64 := by
      have := s.endOff.isLt
      bv_omega
    have hne : s.pos + 64 ≠ s.endOff := by
      intro hc
      rw [← BitVec.toNat_inj] at hc
      omega
    have hphase : (advanceBlock (setWork (mix (blockOf B s.pos.toNat) s.work) s)).phase = .block := by
      rw [advanceBlock_phase, setWork_pos, setWork_endOff, if_neg hne, setWork_phase, hp]
    rw [runBlocks, hblock, fetchBlock_of_holds h.holds h.length_lt s.pos (by omega), except_map_ok]
    simp only
    rw [ih _ (h.of_same (by rw [hphase]; decide) (by simp) (by simp) (by simp) (by simp)) hphase
      (by rw [advanceBlock_pos, advanceBlock_endOff, setWork_pos, setWork_endOff, e]; omega) (by simpa using hB),
      loopDone_advanceBlock, advanceBlock_pos, setWork_pos, e, advanceBlock_work, setWork_work]
    rfl

/-- The NA blocks pass `U` and `MUL` through. -/
theorem absorbBlocks_na_with_u_mul (B : List Byte) (u m : U64) (k p : Nat) (w : Work) :
    absorbBlocks naMix B k p { w with u := u, mul := m } =
      { absorbBlocks naMix B k p w with u := u, mul := m } := by
  induction k generalizing p w with
  | zero => rfl
  | succ k ih => rw [absorbBlocks, absorbBlocks, naMix_with_u_mul, ih]

end Sys2Proof.Machine
end

