-- ==== Sys2Proof/Laws/Agents.lean ====
section
/-! SUPPORT. Whose turn it is and how far its use has come (spec/70_reset_and_hazards.md R260): no operation touches
either, only the host's port and a change of turn do. -/

namespace Sys2Proof.Machine

/-- The same agent's turn, its use no further and no less far. -/
def SameUser (s t : State) : Prop := t.agent = s.agent ∧ t.use = s.use

variable {s t u : State}

theorem SameUser.refl (s : State) : SameUser s s := ⟨rfl, rfl⟩

theorem SameUser.trans (h : SameUser s t) (k : SameUser t u) : SameUser s u :=
  ⟨k.1.trans h.1, k.2.trans h.2⟩

theorem sameUser_commit {r : Except Addr State} (h : ∀ t, r = .ok t → SameUser s t) : SameUser s (commit s r) := by
  obtain ⟨t, e, ht⟩ | ⟨a, -, ht⟩ := commit_cases s r
  · rw [ht]
    exact h t e
  · rw [ht]
    exact ⟨by simp, by simp⟩

theorem sameUser_commit_map {α : Type} {r : Except Addr α} {f : α → State} (h : ∀ a, SameUser s (f a)) :
    SameUser s (commit s (r.map f)) :=
  sameUser_commit fun t e => by
    obtain ⟨a, -, rfl⟩ := except_map_eq_ok e
    exact h a

theorem sameUser_setStage (r : StageResult) : SameUser s (setStage r s) := ⟨rfl, rfl⟩

theorem sameUser_fetchingStage {α : Type} {i : Len} {size : Nat} {r : Except Addr α} {f : α → StageResult}
    (h : fetchingStage s i size (r.map fun v => setStage (f v) s) = .next t) : SameUser s t := by
  obtain ⟨-, -, -, rfl⟩ := fetchingStage_next h
  exact sameUser_commit_map fun a => sameUser_setStage _

theorem sameUser_selectedRoutine {lo hi : Nat} {r : Except Addr U64} (h : selectedRoutine s lo hi r = .next t) :
    SameUser s t := by
  obtain ⟨-, -, -, -, rfl⟩ := selectedRoutine_next h
  exact sameUser_commit_map fun a => sameUser_setStage _

theorem sameUser_sequencerStep {e : Bool} {r : Except Addr State} (hr : ∀ t, r = .ok t → SameUser s t)
    (h : sequencerStep s e r = .next t) : SameUser s t := by
  obtain ⟨-, -, rfl⟩ := sequencerStep_next h
  exact sameUser_commit hr

theorem sameUser_naInit (h : naInit s = .ok t) : SameUser s t := by
  obtain ⟨first, -, rfl⟩ := naInit_ok h
  exact ⟨by simp, by simp⟩

theorem sameUser_block {block : State → Except Addr State} (hb : block = naBlock ∨ block = uoBlock)
    (h : block s = .ok t) : SameUser s t := by
  obtain ⟨w, rfl⟩ := block_moves_on hb h
  exact ⟨by simp, by simp⟩

theorem sameUser_naFinal (h : naFinal s = .ok t) : SameUser s t := by
  obtain ⟨b, -, rfl⟩ := naFinal_ok h
  exact ⟨by simp, by simp⟩

theorem sameUser_uoInit (h : uoInit s = .ok t) : SameUser s t := by
  obtain rfl := uoInit_ok h
  exact ⟨by simp, by simp⟩

theorem sameUser_uoFinal (h : uoFinal s = .ok t) : SameUser s t := by
  obtain ⟨b, -, rfl⟩ := uoFinal_ok h
  exact ⟨by simp, by simp⟩

theorem sameUser_runBlocks {block : State → Except Addr State} (hb : ∀ s t, block s = .ok t → SameUser s t)
    (k : Nat) (s : State) : SameUser s (runBlocks block k s) := by
  induction k generalizing s with
  | zero => exact .refl s
  | succ k ih =>
    unfold runBlocks
    split
    · exact (hb _ _ ‹_›).trans (ih _)
    · exact ⟨by simp, by simp⟩

theorem sameUser_runStream {init block final : State → Except Addr State}
    (hi : ∀ s t, init s = .ok t → SameUser s t) (hb : ∀ s t, block s = .ok t → SameUser s t)
    (hf : ∀ s t, final s = .ok t → SameUser s t) (s : State) : SameUser s (runStream init block final s) := by
  unfold runStream
  split
  · exact ⟨by simp, by simp⟩
  · have h1 := (hi _ _ ‹_›).trans (sameUser_runBlocks hb (blockCount s.endOff) _)
    dsimp only
    split
    · exact h1
    · exact h1.trans (sameUser_commit (hf _))

theorem sameUser_runNa (s : State) : SameUser s (runNa s) :=
  sameUser_runStream (fun _ _ => sameUser_naInit) (fun _ _ => sameUser_block (.inl rfl)) (fun _ _ => sameUser_naFinal) s

theorem sameUser_runUo (s : State) : SameUser s (runUo s) :=
  sameUser_runStream (fun _ _ => sameUser_uoInit) (fun _ _ => sameUser_block (.inr rfl)) (fun _ _ => sameUser_uoFinal) s

theorem sameUser_runTier (h : runTier s = .ok t) : SameUser s t := by
  obtain ⟨d, rfl⟩ | ⟨-, h⟩ | ⟨-, h⟩ := runTier_ok h
  · exact ⟨by simp, by simp⟩
  · exact sameUser_naInit h
  · exact sameUser_uoInit h

theorem sameUser_startAccept (h : startAccept s = .next t) : SameUser s t := by
  obtain ⟨-, rfl⟩ | ⟨-, -, -, rfl⟩ := startAccept_next h
  · exact .refl _
  · exact ⟨by simp, by simp⟩

theorem sameUser_runCommand (s : State) : SameUser s (runCommand s) := by
  unfold runCommand
  split
  · exact sameUser_commit fun _ => sameUser_runTier
  · exact sameUser_commit fun _ => sameUser_runTier
  · exact sameUser_commit fun _ => sameUser_runTier
  · exact sameUser_commit fun _ => sameUser_runTier
  · exact sameUser_runNa s
  · exact sameUser_runUo s

theorem sameUser_execHash64 (h : execHash64 s = .next t) : SameUser s t := by
  unfold execHash64 at h
  split at h
  · cases h
    exact .refl s
  · split at h
    · cases h
      exact (sameUser_startAccept ‹_›).trans (sameUser_runCommand _)
    · cases h
    · cases h

/-- No operation changes whose turn it is or how far its use has come. -/
theorem exec_sameUser (i : Instr) (h : exec i s = .next t) : SameUser s t := by
  cases i with
  | hash64 => exact sameUser_execHash64 h
  | hl0to16 => exact sameUser_selectedRoutine h
  | hl17to32 => exact sameUser_selectedRoutine h
  | hl33to64 => exact sameUser_selectedRoutine h
  | hl65to96 => exact sameUser_selectedRoutine h
  | h64na => exact sameUser_sequencerStep (fun _ e => by cases e; exact sameUser_runNa s) h
  | h64uo => exact sameUser_sequencerStep (fun _ e => by cases e; exact sameUser_runUo s) h
  | hl0 => exact sameUser_selectedRoutine h
  | hl1to3 => exact sameUser_selectedRoutine h
  | hl4to7 => exact sameUser_selectedRoutine h
  | hl8to16 => exact sameUser_selectedRoutine h
  | fetch8 => exact sameUser_fetchingStage h
  | fetch32 => exact sameUser_fetchingStage h
  | fetch64 => exact sameUser_fetchingStage h
  | rotr64 v r =>
    simp only [exec, execRotr64] at h
    split at h
    · cases h
      exact sameUser_setStage _
    · cases h
  | shiftmix => cases h; exact sameUser_setStage _
  | hashlen16 => cases h; exact sameUser_setStage _
  | h32 => exact sameUser_fetchingStage h
  | weak32 => cases h; exact sameUser_setStage _
  | weak32s => exact sameUser_fetchingStage h
  | huo => cases h; exact sameUser_setStage _
  | startAccept => exact sameUser_startAccept h
  | runTier => exact sameUser_sequencerStep (fun _ => sameUser_runTier) h
  | naInit => exact sameUser_sequencerStep (fun _ => sameUser_naInit) h
  | naBlock => exact sameUser_sequencerStep (fun _ => sameUser_block (.inl rfl)) h
  | naFinal => exact sameUser_sequencerStep (fun _ => sameUser_naFinal) h
  | uoInit => exact sameUser_sequencerStep (fun _ => sameUser_uoInit) h
  | uoBlock => exact sameUser_sequencerStep (fun _ => sameUser_block (.inr rfl)) h
  | uoFinal => exact sameUser_sequencerStep (fun _ => sameUser_uoFinal) h

/-- No turn of the core does. -/
theorem coreTurn_sameUser (h : coreTurn s = .next t) : SameUser s t := by
  unfold coreTurn at h
  split at h
  · exact exec_sameUser _ h
  · cases h
    exact .refl s

/-- Another agent's turn: none in the middle of a use, and otherwise no more than the change of turn. -/
theorem agentTurn_next {n : Nat} (h : agentTurn n s = .next t) :
    (n = s.agent ∨ s.use = .free) ∧ t = { s with agent := n } := by
  unfold agentTurn at h
  split at h
  · cases h
  · rename_i hc
    refine ⟨?_, (Host.Outcome.next.inj h).symm⟩
    by_contra hx
    rw [not_or] at hx
    exact hc hx

/-- A host read leaves the core as it is, and ends a use only where it read the digest. -/
theorem hostRead_next {r : CReg} (h : hostRead r s = .next t) :
    ∃ v, regValue r s = some v ∧ t = if r = .cr4 then endUse (observe r v s) else observe r v s := by
  unfold hostRead at h
  split at h
  · exact ⟨_, ‹_›, (Host.Outcome.next.inj h).symm⟩
  · cases h

end Sys2Proof.Machine
end

