-- ==== Sys2Proof/Laws/Bytes.lean ====
section
/-! SUPPORT. The byte order both ways: bytes to a word and back (spec/20_memory.md R52). -/

namespace Sys2Proof.Machine

@[simp] theorem u64Bytes_length (v : U64) : (u64Bytes v).length = 8 := rfl

/-- Bit `j` of the value of a byte list is bit `j % 8` of byte `j / 8`. -/
theorem leU64_getLsbD (bs : List Byte) (j : Nat) (hj : j < 64) :
    (leU64 bs).getLsbD j = (bs.getD (j / 8) 0).getLsbD (j % 8) := by
  induction bs generalizing j with
  | nil => simp [leU64]
  | cons b bs ih =>
    by_cases h : j < 8
    · have h0 : j / 8 = 0 := by omega
      have h1 : j % 8 = j := by omega
      simp [leU64, h, h0, h1, hj]
    · have h0 : j / 8 = (j - 8) / 8 + 1 := by omega
      have h1 : j % 8 = (j - 8) % 8 := by omega
      have hb : b.getLsbD j = false := BitVec.getLsbD_of_ge _ _ (by omega)
      have ih' := ih (j - 8) (by omega)
      rw [h0, h1, List.getD_cons_succ, ← ih']
      simp only [leU64, BitVec.getLsbD_or, BitVec.getLsbD_setWidth, BitVec.getLsbD_shiftLeft, hb, h, hj]
      simp

/-- A word is the value of its bytes. -/
theorem leU64_u64Bytes (v : U64) : leU64 (u64Bytes v) = v := by
  apply BitVec.eq_of_getLsbD_eq
  intro j hj
  rw [leU64_getLsbD _ _ hj]
  have hd : j / 8 < 8 := by omega
  have hm : j % 8 < 8 := by omega
  have e : j = 8 * (j / 8) + j % 8 := by omega
  generalize j / 8 = q at *
  generalize j % 8 = r at *
  subst e
  interval_cases q <;> simp [u64Bytes, byteOf, hm]

/-- Eight bytes are the bytes of their value. -/
theorem u64Bytes_leU64 (b0 b1 b2 b3 b4 b5 b6 b7 : Byte) :
    u64Bytes (leU64 [b0, b1, b2, b3, b4, b5, b6, b7]) = [b0, b1, b2, b3, b4, b5, b6, b7] := by
  have key : ∀ k, k < 8 → byteOf (leU64 [b0, b1, b2, b3, b4, b5, b6, b7]) k =
      ([b0, b1, b2, b3, b4, b5, b6, b7] : List Byte).getD k 0 := by
    intro k hk
    apply BitVec.eq_of_getLsbD_eq
    intro r hr
    have h0 : (8 * k + r) / 8 = k := by omega
    have h1 : (8 * k + r) % 8 = r := by omega
    simp only [byteOf, BitVec.getLsbD_setWidth, BitVec.getLsbD_ushiftRight]
    rw [leU64_getLsbD _ _ (by omega), h0, h1]
    simp [hr]
  simp only [u64Bytes, key, Nat.lt_add_one, Nat.reduceLT]
  simp

/-- Taking an operand off the bytes of a word gives the word. -/
@[simp] theorem takeU64_u64Bytes (v : U64) (rest : List Byte) :
    takeU64 (u64Bytes v ++ rest) = .ok (v, rest) := by
  have h : takeU64 (u64Bytes v ++ rest) = .ok (leU64 (u64Bytes v), rest) := rfl
  rw [h, leU64_u64Bytes]

/-- What taking an operand off says of the bytes. -/
theorem takeU64_ok {bs rest : List Byte} {v : U64} (h : takeU64 bs = .ok (v, rest)) :
    bs = u64Bytes v ++ rest := by
  unfold takeU64 at h
  split at h
  · simp only [Except.ok.injEq, Prod.mk.injEq] at h
    obtain ⟨rfl, rfl⟩ := h
    rw [u64Bytes_leU64]
    rfl
  · cases h

end Sys2Proof.Machine
end

