-- ==== Sys2Proof/Laws/Faults.lean ====
section
/-! SUPPORT. What a refused byte does to each read: the whole read is refused (R53), and so is all that follows. -/

namespace Sys2Proof.Machine

/-- A read one of whose bytes memory refuses is refused. -/
theorem memRead_refused {m : Memory} {a : Addr} {n : Nat}
    (h : ∃ k < n, memLookup m (a + BitVec.ofNat 64 k).toNat = none) : ∃ e, memRead m a n = .error e := by
  obtain ⟨j, hj, hx⟩ := h
  obtain ⟨bs, h1, h2, h3⟩ | ⟨k, h1, h2, h3⟩ := readBytes_cases m a n
  · have := h3 j hj
    rw [hx] at this
    have : bs.length ≤ j := by
      by_contra hc
      rw [List.getElem?_eq_getElem (by omega)] at this
      cases this
    omega
  · exact ⟨a + BitVec.ofNat 64 k, by simp [memRead, h2]⟩

/-- A window byte refused, seen from any offset at or below it. -/
theorem refused_at {s : State} {i : Len} {k size : Nat}
    (hx : memLookup s.mem (s.startAddr + BitVec.ofNat 64 k).toNat = none) (h1 : i.toNat ≤ k) (h2 : k < i.toNat + size) :
    ∃ j < size, memLookup s.mem (s.startAddr + i + BitVec.ofNat 64 j).toNat = none := by
  refine ⟨k - i.toNat, by omega, ?_⟩
  have e : s.startAddr + i + BitVec.ofNat 64 (k - i.toNat) = s.startAddr + BitVec.ofNat 64 k := by
    apply BitVec.eq_of_toNat_eq
    simp only [BitVec.toNat_add, BitVec.toNat_ofNat]
    omega
  rw [e]
  exact hx

/-- A bind whose first read is refused. -/
theorem bind_refused {α β : Type} {x : Except Addr α} (f : α → Except Addr β) (h : ∃ e, x = .error e) :
    ∃ e, (x >>= f) = .error e := by
  obtain ⟨e, rfl⟩ := h
  exact ⟨e, rfl⟩

/-- A bind all of whose continuations are refused. -/
theorem bind_refused_after {α β : Type} {x : Except Addr α} (f : α → Except Addr β) (h : ∀ a, ∃ e, f a = .error e) :
    ∃ e, (x >>= f) = .error e := by
  cases x with
  | error e => exact ⟨e, rfl⟩
  | ok a => exact h a

/-- A mapped read is refused with it. -/
theorem map_refused {α β : Type} {x : Except Addr α} (f : α → β) (h : ∃ e, x = .error e) :
    ∃ e, x.map f = .error e := by
  obtain ⟨e, rfl⟩ := h
  exact ⟨e, rfl⟩

/-- A step whose reads are refused records the MemFault and nothing else (R221). -/
theorem commit_refused {s : State} {x : Except Addr State} (h : ∃ e, x = .error e) :
    commit s x = { s with memFault := true } := by
  obtain ⟨e, rfl⟩ := h
  rfl

theorem refused_shift {s : State} {i : Len} {k d size : Nat}
    (hx : memLookup s.mem (s.startAddr + i + BitVec.ofNat 64 k).toNat = none) (h1 : d ≤ k) (h2 : k < d + size) :
    ∃ j < size, memLookup s.mem (s.startAddr + (i + BitVec.ofNat 64 d) + BitVec.ofNat 64 j).toNat = none := by
  refine ⟨k - d, by omega, ?_⟩
  have e : s.startAddr + (i + BitVec.ofNat 64 d) + BitVec.ofNat 64 (k - d) = s.startAddr + i + BitVec.ofNat 64 k := by
    apply BitVec.eq_of_toNat_eq
    simp only [BitVec.toNat_add, BitVec.toNat_ofNat]
    omega
  rw [e]
  exact hx

/-- A 32-byte window with a refused byte. -/
theorem fetchQuad_refused {s : State} {o : Len}
    (h : ∃ k < 32, memLookup s.mem (s.startAddr + o + BitVec.ofNat 64 k).toNat = none) :
    ∃ e, fetchQuad s o = .error e := by
  obtain ⟨k, hk, hx⟩ := h
  unfold fetchQuad
  by_cases h0 : k < 8
  · exact bind_refused _ (memRead_refused ⟨k, h0, hx⟩)
  refine bind_refused_after _ fun _ => ?_
  by_cases h1 : k < 16
  · exact bind_refused _ (memRead_refused (refused_shift (d := 8) hx (by omega) (by omega)))
  refine bind_refused_after _ fun _ => ?_
  by_cases h2 : k < 24
  · exact bind_refused _ (memRead_refused (refused_shift (d := 16) hx (by omega) (by omega)))
  refine bind_refused_after _ fun _ => ?_
  exact bind_refused _ (memRead_refused (refused_shift (d := 24) hx (by omega) (by omega)))

/-- A 64-byte block with a refused byte. -/
theorem fetchBlock_refused {s : State} {p : Len}
    (h : ∃ k < 64, memLookup s.mem (s.startAddr + p + BitVec.ofNat 64 k).toNat = none) :
    ∃ e, fetchBlock s p = .error e := by
  obtain ⟨k, hk, hx⟩ := h
  unfold fetchBlock
  by_cases h0 : k < 32
  · exact bind_refused _ (fetchQuad_refused ⟨k, h0, hx⟩)
  refine bind_refused_after _ fun _ => ?_
  exact bind_refused _ (fetchQuad_refused (refused_shift (d := 32) hx (by omega) (by omega)))

end Sys2Proof.Machine
end

