-- ==== Sys2Proof/Tests/Slice0.lean ====
section
/-! SUPPORT. The model's own tests. Expected values are those of spec/95_test_vectors.md (named at each test) or of the
rule a test names, never the model's own answer; and for every statement with hypotheses a witness that meets them. -/

namespace Sys2Proof.Machine.Tests

open Sys2Proof Sys2Proof.Machine

-- One theorem after another: a hundred kernel evaluations in flight at once would each hold a thread's stack.
set_option Elab.async false

/-! ### Helpers -/

/-- `ramp(n)` of spec/95_test_vectors.md. -/
def ramp (n : Nat) : List Byte := (List.range n).map (BitVec.ofNat 8)

/-- `ones(n)` of spec/95_test_vectors.md. -/
def ones (n : Nat) : List Byte := List.replicate n 0xff

/-- A memory that admits exactly the bytes `B` from address `a` on. -/
def memAt : Nat → List Byte → Memory
  | _, [] => []
  | a, b :: B => (a, b) :: memAt (a + 1) B

/-- Where the windows of these tests begin. -/
def start : Nat := 0x1000

/-- A command in progress over the window `B`, at phase `p`, as its acceptance latches it. -/
def running (B : List Byte) (p : Phase) : State :=
  { State.reset with
    phase := p, busy := true, len := BitVec.ofNat 64 B.length, tier := dispatch (BitVec.ofNat 64 B.length)
    endOff := if streams (BitVec.ofNat 64 B.length) then blockLimit (BitVec.ofNat 64 B.length) else 0
    pos := if p = .final then blockLimit (BitVec.ofNat 64 B.length) else 0
    startAddr := BitVec.ofNat 64 start, mem := memAt start B
    base := BitVec.ofNat 64 start, length := BitVec.ofNat 64 B.length
    baseWritten := true, offsetWritten := true, lengthWritten := true }

/-- A host that has written its operands: the window `B` split between base and offset. -/
def ready (B : List Byte) : State :=
  { State.reset with
    base := BitVec.ofNat 64 (start - 0x234), offset := 0x234, length := BitVec.ofNat 64 B.length
    mem := memAt start B, baseWritten := true, offsetWritten := true, lengthWritten := true }

/-- The same state with the window's byte at offset `k` no longer admitted. -/
def without (k : Nat) (s : State) : State := { s with mem := s.mem.eraseP fun c => decide (c.1 = start + k) }

/-- A state with one thing pending. -/
def pending (e : Event) (s : State) : State := { s with agenda := [e] }

def faulted (s : State) : State := { s with memFault := true }

def nextOf : Host.Outcome State Fault Refusal → Option State
  | .next t => some t
  | .fault _ => none
  | .refused _ => none

def refusalOf : Host.Outcome State Fault Refusal → Option Refusal
  | .next _ => none
  | .fault _ => none
  | .refused r => some r

/-- What a stage leaves. -/
def stageOf (i : Instr) (s : State) : Option StageResult := (nextOf (exec i s)).map State.stage

/-- What a command leaves in `DIGEST`, if it completes. -/
def digestOf (i : Instr) (s : State) : Option U64 :=
  (nextOf (exec i s)).bind fun t => if t.done && !t.busy then some t.digest else none

/-- The registers of the traces of spec/95_test_vectors.md: `X Y Z V1 V2 W1 W2`, after a step. -/
def traceOf (i : Instr) (s : State) : Option (Len × List U64) :=
  (nextOf (exec i s)).map fun t =>
    (t.pos, [t.work.x, t.work.y, t.work.z, t.work.v1, t.work.v2, t.work.w1, t.work.w2])

/-- The bytes placed are the bytes held. -/
theorem memLookup_memAt (B : List Byte) (a k : Nat) (hk : k < B.length) : memLookup (memAt a B) (a + k) = B[k]? := by
  induction B generalizing a k with
  | nil => cases hk
  | cons b B ih =>
    cases k with
    | zero => simp [memAt, memLookup]
    | succ k =>
      have h := ih (a + 1) k (by simpa using hk)
      simp only [memAt, memLookup]
      rw [if_pos (by omega), show a + (k + 1) = a + 1 + k by omega, h]
      rfl

/-- A placed window is held where it was placed. -/
theorem holds {B : List Byte} (h : B.length ≤ 2 ^ 32) : WindowHolds (memAt start B) (BitVec.ofNat 64 start) B := by
  intro k hk
  have e : (BitVec.ofNat 64 start + BitVec.ofNat 64 k).toNat = start + k := by
    rw [← BitVec.ofNat_add, BitVec.toNat_ofNat, Nat.mod_eq_of_lt (by unfold start; omega)]
  rw [e, memLookup_memAt B start k hk]

/-- Every `running` state is a command in progress on its window. -/
theorem runs {B : List Byte} {p : Phase} (hp : p ≠ .idle) (h : B.length ≤ 2 ^ 32) : Running (running B p) B :=
  ⟨hp, rfl, by
    show (BitVec.ofNat 64 B.length).toNat = B.length
    rw [BitVec.toNat_ofNat, Nat.mod_eq_of_lt (by omega)], holds h⟩

/-- The predicate `MachineInv`, checked. -/
theorem inv {s : State}
    (h : decide (s.mem.wf = true ∧ (s.busy = true ↔ s.phase ≠ .idle) ∧ ¬(s.busy = true ∧ s.done = true) ∧
      (s.memFault = true → s.phase ≠ .idle) ∧ (s.phase ≠ .idle → s.tier = dispatch s.len) ∧
      (s.phase = .block ∨ s.phase = .final → 97 ≤ s.len.toNat) ∧
      (s.phase ≠ .idle → 97 ≤ s.len.toNat → s.endOff.toNat = (s.len.toNat - 1) / 64 * 64) ∧
      (s.phase = .block → s.pos.toNat % 64 = 0 ∧ s.pos.toNat < s.endOff.toNat) ∧
      (s.phase = .final → s.pos = s.endOff) ∧
      (s.phase ≠ .idle → s.len ≠ 0 → s.startAddr.toNat + s.len.toNat ≤ 2 ^ 64)) = true) : MachineInv s := by
  obtain ⟨h1, h2, h3, h4, h5, h6, h7, h8, h9, h10⟩ := of_decide_eq_true h
  exact ⟨h1, h2, h3, h4, h5, h6, h7, h8, h9, h10⟩

/-- The predicate `LaunchReady` on a platform without devices, checked. -/
theorem launches {s : State} (hd : s.devices = [])
    (h : decide (s.phase = .idle ∧ s.memFault = false ∧ s.baseWritten = true ∧ s.offsetWritten = true ∧
      s.lengthWritten = true ∧ (s.length ≠ 0 → s.base.toNat + s.offset.toNat + s.length.toNat ≤ 2 ^ 64)) = true) :
    LaunchReady s := by
  obtain ⟨h1, h2, h3, h4, h5, h6⟩ := of_decide_eq_true h
  exact ⟨h1, h2, h3, h4, h5, h6, by simp [hd]⟩

/-! ### Well-formedness -/

/-- `WellFormed` refuses its one kind of ill-formed term, and takes the largest count. -/
theorem test_wellFormed_count :
    (Instr.rotr64 1 64).wellFormed = false ∧ (Instr.rotr64 1 255).wellFormed = false ∧
      (Instr.rotr64 1 63).wellFormed = true := by decide

/-! ### Decoding: the words of the table of R85, written out -/

theorem test_decode_every_label :
    [0x00, 0x10, 0x11, 0x12, 0x13, 0x14, 0x15, 0x18, 0x19, 0x1a, 0x1b, 0x20, 0x21, 0x22, 0x23, 0x24, 0x25, 0x26,
      0x27, 0x28, 0x29, 0x30, 0x31, 0x34, 0x35, 0x36, 0x38, 0x39, 0x3a].map (decodeTableWord 8) =
    [.hash64, .hl0to16, .hl17to32, .hl33to64, .hl65to96, .h64na, .h64uo, .hl0, .hl1to3, .hl4to7, .hl8to16, .fetch8 0,
      .fetch32 0, .fetch64 0, .rotr64 0 0, .shiftmix 0, .hashlen16 0 0 0, .h32 0 0 0 0, .weak32 0 0 0 0 0 0,
      .weak32s 0 0 0, .huo 0 0 0 .r30, .startAccept, .runTier, .naInit, .naBlock, .naFinal, .uoInit, .uoBlock,
      .uoFinal].map some := by decide +kernel

/-- The 227 other values of a label byte name nothing (R86). -/
theorem test_decode_reserved :
    ((List.range 256).filter fun w => (decodeTableWord 8 w).isNone).length = 227 := by decide +kernel

theorem test_decode_rotr64 :
    decode [0x23, 0xef, 0xcd, 0xab, 0x89, 0x67, 0x45, 0x23, 0x01, 0x08] = .ok (.rotr64 0x0123456789abcdef 8, []) := by
  decide +kernel

theorem test_decode_huo :
    decode [0x29, 1, 0, 0, 0, 0, 0, 0, 0, 2, 0, 0, 0, 0, 0, 0, 0, 3, 0, 0, 0, 0, 0, 0, 0x80, 1] =
      .ok (.huo 1 2 0x8000000000000003 .r31, []) := by decide +kernel

theorem test_decode_refuses :
    decode [0x23, 0, 0, 0, 0, 0, 0, 0, 0, 0x40] = .error (.badRotateCount 0x40) ∧
      decode [0x22, 1, 2, 3] = .error .missingOperand ∧ decode [] = .error .noLabel := by decide +kernel

/-! ### The stages (spec/95_test_vectors.md section 4) -/

theorem test_fetch8 : stageOf (.fetch8 39) (running (ramp 40) .init) = some (.word 0x27) ∧
    stageOf (.fetch8 0) (running (ones 4) .init) = some (.word 0xff) := by decide +kernel

theorem test_fetch32 : stageOf (.fetch32 1) (running (ramp 40) .init) = some (.word 0x04030201) ∧
    stageOf (.fetch32 0) (running (ones 4) .init) = some (.word 0x00000000ffffffff) := by decide +kernel

theorem test_fetch64 : stageOf (.fetch64 1) (running (ramp 40) .init) = some (.word 0x0807060504030201) ∧
    stageOf (.fetch64 32) (running (ramp 40) .init) = some (.word 0x2726252423222120) := by decide +kernel

theorem test_fetch64_past_the_window :
    refusalOf (exec (.fetch64 33) (running (ramp 40) .init)) = some .offsetOutsideWindow := by decide +kernel

theorem test_rotr64 : stageOf (.rotr64 0x0123456789abcdef 43) State.reset = some (.word 0xacf13579bde02468) ∧
    stageOf (.rotr64 0x8000000000000000 63) State.reset = some (.word 1) := by decide +kernel

theorem test_shiftmix : stageOf (.shiftmix 0x0123456789abcdef) State.reset = some (.word 0x0123456789abcfa9) ∧
    stageOf (.shiftmix 0x0000800000000000) State.reset = some (.word 0x0000800000000001) := by decide +kernel

theorem test_hashlen16 : stageOf (.hashlen16 1 2 0x9ae16a3b2f90404f) State.reset = some (.word 0xb1bb418e84ddda0b) ∧
    stageOf (.hashlen16 2 1 0x9ae16a3b2f90404f) State.reset = some (.word 0xa3b16fde5389e351) := by decide +kernel

theorem test_h32 :
    stageOf (.h32 0 0x9ae16a3b2f904031 1 2) (running (ramp 40) .init) = some (.word 0x1bfc55dbd99ba4d8) ∧
    stageOf (.h32 8 0x9ae16a3b2f904031 0 0) (running (ramp 40) .init) = some (.word 0xdbc3ea30652279c3) := by
  decide +kernel

theorem test_weak32 :
    stageOf (.weak32 1 2 3 4 5 6) State.reset = some (.pair 0x0f 0x0000800000b00006) ∧
    stageOf (.weak32 0 0 0 0 1 0) State.reset = some (.pair 1 0x0000080000100001) := by decide +kernel

theorem test_weak32s :
    stageOf (.weak32s 8 1 2) (running (ramp 40) .init) = some (.pair 0x6c6864605c585451 0x6422fa20dfafde9d) := by
  decide +kernel

theorem test_huo : stageOf (.huo 1 2 0x9ae16a3b2f90404f .r30) State.reset = some (.word 0x912389f50f06b04d) ∧
    stageOf (.huo 1 2 0x9ae16a3b2f90404f .r31) State.reset = some (.word 0x7b210fdcefbb37ff) := by decide +kernel

/-! ### The routines of tiers 0 to 3 (spec/95_test_vectors.md section 3) -/

theorem test_hl0 : stageOf .hl0 (running [] .init) = some (.word 0x9ae16a3b2f90404f) := by decide +kernel

theorem test_hl1to3 : stageOf .hl1to3 (running [0x61, 0x62, 0x63] .init) = some (.word 0x24a5b3a074e7f369) ∧
    stageOf .hl1to3 (running [0x00] .init) = some (.word 0xbe6056edf5e94b54) := by decide +kernel

theorem test_hl4to7 : stageOf .hl4to7 (running [0x68, 0x65, 0x6c, 0x6c, 0x6f] .init) = some (.word 0xb48be5a931380ce8) ∧
    stageOf .hl4to7 (running (ones 7) .init) = some (.word 0xcb5dfe0ad2d1bd1d) := by decide +kernel

theorem test_hl8to16 :
    stageOf .hl8to16 (running [0x31, 0x66, 0x6f, 0x6f, 0x74, 0x72, 0x75, 0x65] .init) =
      some (.word 0xea9af1c357a4ccc9) ∧
    stageOf .hl8to16 (running (ramp 16) .init) = some (.word 0x0efd25a0a34156d4) := by decide +kernel

theorem test_hl0to16 : stageOf .hl0to16 (running (ramp 3) .init) = some (.word 0x94a13d22e9eba49a) ∧
    stageOf .hl0to16 (running (ramp 9) .init) = some (.word 0x81371e150e4ad84f) := by decide +kernel

theorem test_hl17to32 : stageOf .hl17to32 (running (ramp 17) .init) = some (.word 0xbbb6a6f8f20d1f1c) ∧
    stageOf .hl17to32 (running (ones 32) .init) = some (.word 0x37566067f38700be) := by decide +kernel

theorem test_hl33to64 : stageOf .hl33to64 (running (ramp 33) .init) = some (.word 0x196e4e2fdf2a8fb2) ∧
    refusalOf (exec .hl33to64 (running (ramp 32) .init)) = some .lengthNotSelected := by decide +kernel

theorem test_hl65to96 : stageOf .hl65to96 (running (ramp 66) .init) = some (.word 0x43400dc2d5ff386e) ∧
    refusalOf (exec .hl65to96 (faulted (running (ramp 66) .init))) = some .notEnabled := by decide +kernel

/-! ### The sequencer steps (spec/95_test_vectors.md sections 2, 5.1 and 6) -/

/-- The registers of an NA command on `ramp(97)` after its one block (section 5.1). -/
def naAfterBlock : State :=
  { running (ramp 97) .final with
    work :=
      { x := 0xd1dd0dd1ddb0b84d, y := 0xd989baf02a075e69, z := 0xde0411f1cb979833, u := 5, v1 := 0x4c4844403c383430
        v2 := 0x16da6f06f62562ef, w1 := 0x9ea5d2929a696cfd, w2 := 0x827a1730472a83af, mul := 0 } }

/-- The registers of a command on `ramp(97)` after `NA_INIT` (section 5.1). -/
def naAfterInit : State :=
  { running (ramp 97) .block with
    work :=
      { Work.zero with x := 0x0858a1be0fa659ff, y := 0x226bb95b4e64b6d4, z := 0x134a747f856d0526, u := 5 } }

/-- The registers of a command on `ramp(257)` after `UO_INIT` (section 6). -/
def uoAfterInit : State :=
  { running (ramp 257) .block with
    work :=
      { Work.zero with
        x := 0x01529cba0ca458ff, y := 0x71, z := 0x7cb371d23f5eb1e0, u := 0x834c8e2dc0a14e71, v1 := 0x51
        mul := 0x9ae16a3b2f90404f } }

/-- The registers of a command on `ramp(257)` after its last block (section 6). -/
def uoAfterBlocks : State :=
  { running (ramp 257) .final with
    work :=
      { x := 0xa6391c54965f0ee9, y := 0xf5ea2125564b2e16, z := 0x7cbc9716b8838ff5, u := 0x1d34dc46b65589f8
        v1 := 0x34e6421185db616e, v2 := 0xc693c7589a394565, w1 := 0xe7a2870e0c012d03, w2 := 0x6727a3035500cff3
        mul := 0x9ae16a3b2f90404f } }

theorem test_startAccept :
    (nextOf (exec .startAccept (ready (ramp 129)))).map (fun t => (t.startAddr, t.len, t.tier, t.endOff)) =
      some (0x1000, 129, .na, 128) ∧
    refusalOf (exec .startAccept { ready [] with lengthWritten := false }) = some .operandsNotWritten := by
  decide +kernel

/-- Program P1 of spec/95_test_vectors.md: `LENGTH = 0` is accepted "for every value of `CR0` and `CR1`", `N = 0` and tier
0, here with both at their largest; one byte more and the window wraps (R61). -/
theorem test_startAccept_empty_window :
    (nextOf (exec .startAccept { ready [] with base := 0xffffffffffffffff, offset := 0xffffffffffffffff })).map
      (fun t => (t.len, t.tier, t.busy)) = some (0, .t0, true) ∧
    refusalOf (exec .startAccept { ready [] with base := 0xffffffffffffffff, offset := 0xffffffffffffffff, length := 1 }) =
      some .windowWraps := by decide +kernel

theorem test_runTier : digestOf .runTier (running (ramp 96) .init) = some 0x3133d1f98c1b349c ∧
    digestOf .runTier (running (ramp 64) .init) = some 0x726fc82b6f70c73b := by decide +kernel

theorem test_naInit : traceOf .naInit (running (ramp 97) .init) =
    some (0, [0x0858a1be0fa659ff, 0x226bb95b4e64b6d4, 0x134a747f856d0526, 0, 0, 0, 0]) := by decide +kernel

theorem test_naBlock : traceOf .naBlock naAfterInit =
    some (64, [0xd1dd0dd1ddb0b84d, 0xd989baf02a075e69, 0xde0411f1cb979833, 0x4c4844403c383430, 0x16da6f06f62562ef,
      0x9ea5d2929a696cfd, 0x827a1730472a83af]) := by decide +kernel

theorem test_naBlock_leaves_the_loop : (nextOf (exec .naBlock naAfterInit)).map State.phase = some .final := by
  decide +kernel

theorem test_naFinal : digestOf .naFinal naAfterBlock = some 0xe01a595db9500cb5 ∧
    (nextOf (exec .naFinal naAfterBlock)).map (fun t => t.work.u) = some 5 := by decide +kernel

theorem test_uoInit : traceOf .uoInit (running (ramp 257) .init) =
    some (0, [0x01529cba0ca458ff, 0x71, 0x7cb371d23f5eb1e0, 0x51, 0, 0, 0]) := by decide +kernel

theorem test_uoBlock : traceOf .uoBlock uoAfterInit =
    some (64, [0x030d482baa65fb82, 0xeb31f136a280ab4b, 0x98908c08b8b0a8a0, 0x59621196b637c815, 0x3a45dbc66d4456ce,
      0x7c9cd1afc67daba4, 0xbe14aaf139c81aca]) := by decide +kernel

theorem test_uoBlock_swaps_u :
    (nextOf (exec .uoBlock uoAfterInit)).map (fun t => (t.work.u, t.phase)) = some (0xd516181efea943f9, .block) := by
  decide +kernel

theorem test_uoFinal : digestOf .uoFinal uoAfterBlocks = some 0x4771d60ed28ac009 := by decide +kernel

/-! ### Whole routines and the command (spec/95_test_vectors.md section 3) -/

theorem test_h64na : digestOf .h64na (running (ramp 97) .init) = some 0xe01a595db9500cb5 := by decide +kernel

/-- A refused byte of the second block: the first block's step stands, the second takes no effect (R221). The digest of
a whole UO window is too long for the kernel here; its three steps are tested above. -/
theorem test_h64uo_faults :
    (nextOf (exec .h64uo (without 64 (running (ramp 257) .init)))).map (fun t => (t.memFault, t.pos, t.work.y)) =
      some (true, 64, 0xeb31f136a280ab4b) := by decide +kernel

theorem test_hash64_abc : digestOf .hash64 (ready [0x61, 0x62, 0x63]) = some 0x24a5b3a074e7f369 := by decide +kernel

theorem test_hash64_faults :
    (nextOf (exec .hash64 (without 6 (ready (ramp 7))))).map (fun t => (t.memFault, t.busy, t.done)) =
      some (true, true, false) := by decide +kernel

/-! ### The host's port (R27 to R29) -/

theorem test_ctrl_reads_done_busy_start :
    readCtrl (running [] .init) = 0b010 ∧ readCtrl { State.reset with done := true } = 0b100 := by decide

theorem test_wait_after_a_fault :
    step (pending (.host .wait) (faulted (running (ramp 1) .init))) = .fault .memFault := rfl

theorem test_store_in_window_refused :
    refusalOf (step (pending (.host (.store 0x1002 0xff)) (running (ramp 3) .init))) = some .windowChanged := by
  decide +kernel

/-- R260, U18: after an operand write another agent may not take its turn; after the digest is read it may. -/
theorem test_agent_turn_in_a_use :
    (nextOf (step (pending (.host (.write .cr0 5)) (ready [])))).map State.use = some .operands ∧
    refusalOf (step (pending (.agent 1) { ready [] with use := .operands })) = some .sharedWithoutAgreement := by
  decide +kernel

theorem test_agent_turn_after_the_digest :
    (nextOf (step (pending (.host (.read .cr4)) { ready [] with done := true, use := .command }))).map State.use =
      some .free ∧
    (nextOf (step (pending (.agent 1) (ready [])))).map State.agent = some 1 := by decide +kernel

/-- A label word placed where the step takes its next: the very next step runs it. -/
theorem test_withFetchWord :
    (nextOf (step (State.reset.withFetchWord 8 0x18))).map State.stage = some (.word 0x9ae16a3b2f90404f) := by
  decide +kernel

/-! ### Witnesses: for every statement with hypotheses, states and operands that meet them, each clause at the bounds
of its range -/

theorem witness_DecodeOfEncode : (Instr.rotr64 1 63).wellFormed = true ∧ Instr.hash64.wellFormed = true := by decide +kernel

theorem witness_DecodedBytes : decode [0x20, 7, 0, 0, 0, 0, 0, 0, 0, 0x99] = .ok (.fetch8 7, [0x99]) := by
  decide +kernel

theorem witness_StepRunsTheDecodedLabel :
    (pending (.label [0x31]) (running (ramp 1) .init)).agenda = .label [0x31] :: [] ∧
      decode [0x31] = .ok (.runTier, []) := by decide +kernel

/-- Each clause's phase and tier, with nothing pending and with a core event at the head. -/
theorem witness_CoreTurn :
    (∀ s ∈ [State.reset, running (ramp 1) .init, running (ramp 97) .block, running (ramp 257) .block,
      running (ramp 256) .final, running (ramp 257) .final], s.agenda = [] ∧ s.memFault = false ∧
      (pending .core s).agenda = .core :: [] ∧ (pending .core s).memFault = false) ∧
    State.reset.phase = .idle ∧ (running (ramp 1) .init).phase = .init ∧
    ((running (ramp 97) .block).phase = .block ∧ (running (ramp 97) .block).tier = .na) ∧
    ((running (ramp 257) .block).phase = .block ∧ (running (ramp 257) .block).tier = .uo) ∧
    ((running (ramp 256) .final).phase = .final ∧ (running (ramp 256) .final).tier = .na) ∧
    ((running (ramp 257) .final).phase = .final ∧ (running (ramp 257) .final).tier = .uo) := by decide +kernel

theorem witness_StepKeepsTheInvariant :
    MachineInv (running (ramp 97) .init) ∧ (nextOf (step (running (ramp 97) .init))).isSome = true ∧
    MachineInv (ready (ramp 3)) ∧
    (nextOf (step (pending (.host (.write .cr3 1)) (ready (ramp 3))))).isSome = true :=
  ⟨inv (by decide +kernel), by decide +kernel, inv (by decide +kernel), by decide +kernel⟩

theorem witness_ResetLeaves :
    (pending (.host .reset) (faulted (running (ramp 1) .init))).agenda = .host .reset :: [] := rfl

/-- A core step of a running command, with no host event at all. -/
theorem witness_CoreNeverWritesMemory :
    (nextOf (step (running (ramp 17) .init))).isSome = true ∧
    (∀ a b rest, (running (ramp 17) .init).agenda ≠ .host (.store a b) :: rest) ∧
    (∀ r rest, (running (ramp 17) .init).agenda ≠ .host (.read r) :: rest) ∧ CReg.cr0 ≠ CReg.cr4 :=
  ⟨by decide +kernel, nofun, nofun, by decide +kernel⟩

/-- The store refused is to the last window byte; the stores taken are of that byte's own value, to the first byte
after the window, and to an address that held nothing. -/
theorem witness_HostStore :
    (running (ramp 3) .init).mem.wf = true ∧
    (pending (.host (.store 0x1002 9)) (running (ramp 3) .init)).agenda = .host (.store 0x1002 9) :: [] ∧
    ((running (ramp 3) .init).busy = true ∧
      ((0x1002 : Addr) - (running (ramp 3) .init).startAddr).toNat < (running (ramp 3) .init).len.toNat ∧
      memLookup (running (ramp 3) .init).mem (0x1002 : Addr).toNat ≠ some 9) ∧
    memLookup (running (ramp 3) .init).mem (0x1002 : Addr).toNat = some 2 ∧
    ¬(((0x1003 : Addr) - (running (ramp 3) .init).startAddr).toNat < (running (ramp 3) .init).len.toNat) := by
  decide +kernel

theorem witness_MemRead :
    (ramp 8).length = 8 ∧ WindowHolds (memAt start (ramp 8)) (BitVec.ofNat 64 start) (ramp 8) ∧
    (ramp 1).length = 1 ∧ WindowHolds (memAt start (ramp 1)) (BitVec.ofNat 64 start) (ramp 1) ∧
    (ramp 4).length = 4 ∧ WindowHolds (memAt start (ramp 4)) (BitVec.ofNat 64 start) (ramp 4) ∧
    ∃ k < 8, memLookup (memAt start (ramp 7)) (BitVec.ofNat 64 start + BitVec.ofNat 64 k).toNat = none :=
  ⟨rfl, holds (by decide +kernel), rfl, holds (by decide +kernel), rfl, holds (by decide +kernel), 7, by decide +kernel, by decide +kernel⟩

theorem witness_FetchStages :
    Running (running (ramp 40) .init) (ramp 40) ∧ (39 : Len).toNat + 1 ≤ (ramp 40).length ∧
      (36 : Len).toNat + 4 ≤ (ramp 40).length ∧ (32 : Len).toNat + 8 ≤ (ramp 40).length :=
  ⟨runs (by decide +kernel) (by decide +kernel), by decide +kernel, by decide +kernel, by decide +kernel⟩

/-- The refused byte is the last one each stage reads. -/
theorem witness_FetchingStagesTrap :
    (without 39 (running (ramp 40) .init)).phase ≠ .idle ∧ (without 39 (running (ramp 40) .init)).memFault = false ∧
    (without 39 (running (ramp 40) .init)).len.toNat = 40 ∧ RefusedAt (without 39 (running (ramp 40) .init)) 39 1 ∧
    RefusedAt (without 39 (running (ramp 40) .init)) 36 4 ∧ RefusedAt (without 39 (running (ramp 40) .init)) 32 8 ∧
    RefusedAt (without 39 (running (ramp 40) .init)) 8 32 :=
  ⟨by decide +kernel, by decide +kernel, by decide +kernel, ⟨0, by decide +kernel, by decide +kernel⟩, ⟨3, by decide +kernel, by decide +kernel⟩,
    ⟨7, by decide +kernel, by decide +kernel⟩, ⟨31, by decide +kernel, by decide +kernel⟩⟩

theorem witness_FetchingStagesKeep :
    State.reset.phase = .idle ∧ (faulted (running (ramp 40) .init)).memFault = true ∧
    (running (ramp 40) .init).phase ≠ .idle ∧ (running (ramp 40) .init).memFault = false ∧
    (running (ramp 40) .init).len.toNat < (40 : Len).toNat + 1 ∧
    (running (ramp 40) .init).len.toNat < (37 : Len).toNat + 4 ∧
    (running (ramp 40) .init).len.toNat < (33 : Len).toNat + 8 ∧
    (running (ramp 40) .init).len.toNat < (9 : Len).toNat + 32 := by decide +kernel

theorem witness_Rotr64 : (63 : Byte).toNat < 64 ∧ (0 : Byte).toNat < 64 ∧ 64 ≤ (64 : Byte).toNat := by decide +kernel

/-- For `Weak32sIsTheWeakPairOfItsWindow` and `H32MixesItsWindow`: the last offset a 40-byte window admits. -/
theorem witness_window_stages :
    Running (running (ramp 40) .init) (ramp 40) ∧ (8 : Len).toNat + 32 ≤ (ramp 40).length :=
  ⟨runs (by decide +kernel) (by decide +kernel), by decide +kernel⟩

theorem witness_Hl0 : (running [] .init).phase ≠ .idle ∧ (running [] .init).memFault = false ∧
    (running [] .init).len = 0 := by decide +kernel

theorem witness_Hl1to3 : (Running (running (ramp 1) .init) (ramp 1) ∧ Running (running (ramp 3) .init) (ramp 3)) ∧
    1 ≤ (ramp 1).length ∧ (ramp 3).length ≤ 3 :=
  ⟨⟨runs (by decide +kernel) (by decide +kernel), runs (by decide +kernel) (by decide +kernel)⟩, by decide +kernel, by decide +kernel⟩

theorem witness_Hl4to7 : (Running (running (ramp 4) .init) (ramp 4) ∧ Running (running (ramp 7) .init) (ramp 7)) ∧
    4 ≤ (ramp 4).length ∧ (ramp 7).length ≤ 7 :=
  ⟨⟨runs (by decide +kernel) (by decide +kernel), runs (by decide +kernel) (by decide +kernel)⟩, by decide +kernel, by decide +kernel⟩

theorem witness_Hl8to16 : (Running (running (ramp 8) .init) (ramp 8) ∧ Running (running (ramp 16) .init) (ramp 16)) ∧
    8 ≤ (ramp 8).length ∧ (ramp 16).length ≤ 16 :=
  ⟨⟨runs (by decide +kernel) (by decide +kernel), runs (by decide +kernel) (by decide +kernel)⟩, by decide +kernel, by decide +kernel⟩

theorem witness_Hl0to16 : Running (running [] .init) [] ∧ Running (running (ramp 16) .init) (ramp 16) ∧
    (ramp 16).length ≤ 16 ∧ 8 ≤ (ramp 8).length ∧ ¬8 ≤ (ramp 7).length ∧ ¬4 ≤ (ramp 3).length :=
  ⟨runs (by decide +kernel) (by decide +kernel), runs (by decide +kernel) (by decide +kernel), by decide +kernel, by decide +kernel, by decide +kernel, by decide +kernel⟩

theorem witness_Hl17to32 :
    (Running (running (ramp 17) .init) (ramp 17) ∧ Running (running (ramp 32) .init) (ramp 32)) ∧
    17 ≤ (ramp 17).length ∧ (ramp 32).length ≤ 32 :=
  ⟨⟨runs (by decide +kernel) (by decide +kernel), runs (by decide +kernel) (by decide +kernel)⟩, by decide +kernel, by decide +kernel⟩

theorem witness_Hl33to64 :
    (Running (running (ramp 33) .init) (ramp 33) ∧ Running (running (ramp 64) .init) (ramp 64)) ∧
    33 ≤ (ramp 33).length ∧ (ramp 64).length ≤ 64 :=
  ⟨⟨runs (by decide +kernel) (by decide +kernel), runs (by decide +kernel) (by decide +kernel)⟩, by decide +kernel, by decide +kernel⟩

theorem witness_Hl65to96 :
    (Running (running (ramp 65) .init) (ramp 65) ∧ Running (running (ramp 96) .init) (ramp 96)) ∧
    65 ≤ (ramp 65).length ∧ (ramp 96).length ≤ 96 :=
  ⟨⟨runs (by decide +kernel) (by decide +kernel), runs (by decide +kernel) (by decide +kernel)⟩, by decide +kernel, by decide +kernel⟩

/-- For each routine a window of the largest length it takes, its last byte refused. -/
theorem witness_RoutinesTrap :
    ∀ n ∈ [3, 7, 16, 32, 64, 96], (without (n - 1) (running (ramp n) .init)).phase ≠ .idle ∧
      (without (n - 1) (running (ramp n) .init)).memFault = false ∧
      (without (n - 1) (running (ramp n) .init)).len.toNat = n ∧
      RefusedAt (without (n - 1) (running (ramp n) .init)) 0 n := by decide +kernel

theorem witness_RoutinesKeep :
    State.reset.phase = .idle ∧ (faulted (running (ramp 17) .init)).memFault = true ∧
    (running (ramp 16) .init).phase ≠ .idle ∧ (running (ramp 16) .init).memFault = false ∧
    (running (ramp 16) .init).len.toNat < 17 ∧ 32 < (running (ramp 33) .init).len.toNat := by decide +kernel

/-- Lengths at which the launch's clauses meet: the longest without a loop, the shortest with one, and the length that
ends at the top of the address space. -/
theorem witness_StartAccept :
    LaunchReady (ready (ramp 96)) ∧ LaunchReady (ready (ramp 97)) ∧ 97 ≤ (ready (ramp 97)).length.toNat ∧
    LaunchReady { ready [] with base := 0xfffffffffffffff0, offset := 0, length := 0x10 } :=
  ⟨launches rfl (by decide +kernel), launches rfl (by decide +kernel), by decide +kernel, launches rfl (by decide +kernel)⟩

/-- One launch on each side of every bound of `Dispatch`. -/
theorem witness_Dispatch :
    ∀ n ∈ [0, 16, 17, 32, 33, 64, 65, 96, 97, 256, 257],
      LaunchReady { ready [] with length := BitVec.ofNat 64 n } := by
  intro n hn
  simp only [List.mem_cons, List.not_mem_nil, or_false] at hn
  rcases hn with rfl | rfl | rfl | rfl | rfl | rfl | rfl | rfl | rfl | rfl | rfl <;>
    exact launches rfl (by decide +kernel)

theorem witness_StartIsIgnored :
    (running (ramp 1) .init).phase ≠ .idle ∧ (faulted (running (ramp 1) .init)).memFault = true ∧
    (pending (.host (.write .cr3 1)) (running (ramp 1) .init)).agenda = .host (.write .cr3 1) :: [] := by decide +kernel

/-- An operand not written; a window one byte past the top; a device at the last byte of the window. -/
theorem witness_StartRefuses :
    ((ready (ramp 3)).phase = .idle ∧ (ready (ramp 3)).memFault = false) ∧
    ¬({ ready (ramp 3) with offsetWritten := false } : State).offsetWritten = true ∧
    (({ ready [] with base := 0xffffffffffffffff, offset := 0, length := 2 } : State).length ≠ 0 ∧
      2 ^ 64 < (0xffffffffffffffff : Addr).toNat + (0 : Addr).toNat + (2 : Len).toNat) ∧
    (∃ d ∈ ({ ready (ramp 3) with devices := [(0x1002, 1)] } : State).devices, ∃ a,
      ((ready (ramp 3)).base + (ready (ramp 3)).offset).toNat ≤ a ∧
      a < ((ready (ramp 3)).base + (ready (ramp 3)).offset).toNat + (ready (ramp 3)).length.toNat ∧
      d.1 ≤ a ∧ a < d.1 + d.2) :=
  ⟨by decide +kernel, by decide +kernel, by decide +kernel, (0x1002, 1), by decide +kernel, 0x1002, by decide +kernel, by decide +kernel, by decide +kernel, by decide +kernel⟩

theorem witness_RunTier :
    Running (running (ramp 96) .init) (ramp 96) ∧ Running (running (ramp 97) .init) (ramp 97) ∧
    Running (running (ramp 256) .init) (ramp 256) ∧ Running (running (ramp 257) .init) (ramp 257) ∧
    (∀ n ∈ [96, 97, 256, 257], (running (ramp n) .init).phase = .init ∧
      (running (ramp n) .init).tier = dispatch (running (ramp n) .init).len) ∧
    (ramp 96).length ≤ 96 ∧ 96 < (ramp 97).length ∧ (ramp 256).length ≤ 256 ∧ 256 < (ramp 257).length :=
  ⟨runs (by decide +kernel) (by decide +kernel), runs (by decide +kernel) (by decide +kernel), runs (by decide +kernel) (by decide +kernel),
    runs (by decide +kernel) (by decide +kernel), by decide +kernel, by decide +kernel, by decide +kernel,
    by decide +kernel, by decide +kernel⟩

/-- For `NaInitSeedsTheRegisters`, `NaBlockUpdatesTheRegisters` and `NaFinalCompletesTheCommand`. -/
theorem witness_NaSteps :
    (Running (running (ramp 97) .init) (ramp 97) ∧ Running naAfterInit (ramp 97) ∧ Running naAfterBlock (ramp 97)) ∧
    ((running (ramp 97) .init).phase = .init ∧ (running (ramp 97) .init).tier = .na ∧ 8 ≤ (ramp 97).length) ∧
    (naAfterInit.phase = .block ∧ naAfterInit.tier = .na ∧ naAfterInit.pos.toNat + 64 ≤ (ramp 97).length) ∧
    (naAfterBlock.phase = .final ∧ naAfterBlock.tier = .na ∧ 64 ≤ (ramp 97).length) :=
  ⟨⟨runs (by decide +kernel) (by decide +kernel), ⟨by decide +kernel, rfl, by decide +kernel, holds (by decide +kernel)⟩,
    ⟨by decide +kernel, rfl, by decide +kernel, holds (by decide +kernel)⟩⟩, by decide +kernel, by decide +kernel, by decide +kernel⟩

/-- For `UoInitSetsTheTable`, `UoBlockUpdatesTheRegisters` and `UoFinalCompletesTheCommand`. -/
theorem witness_UoSteps :
    (Running uoAfterInit (ramp 257) ∧ Running uoAfterBlocks (ramp 257)) ∧
    ((running (ramp 257) .init).phase = .init ∧ (running (ramp 257) .init).tier = .uo ∧
      (running (ramp 257) .init).memFault = false) ∧
    (uoAfterInit.phase = .block ∧ uoAfterInit.tier = .uo ∧ uoAfterInit.pos.toNat + 64 ≤ (ramp 257).length) ∧
    (uoAfterBlocks.phase = .final ∧ uoAfterBlocks.tier = .uo ∧ 64 ≤ (ramp 257).length) :=
  ⟨⟨⟨by decide +kernel, rfl, by decide +kernel, holds (by decide +kernel)⟩, ⟨by decide +kernel, rfl, by decide +kernel, holds (by decide +kernel)⟩⟩, by decide +kernel,
    by decide +kernel, by decide +kernel⟩

/-- The refused byte of each clause: the last the step reads. -/
theorem witness_SequencerStepsTrap :
    ((without 15 (running (ramp 16) .init)).memFault = false ∧ (without 15 (running (ramp 16) .init)).phase = .init ∧
      (without 15 (running (ramp 16) .init)).tier = dispatch (without 15 (running (ramp 16) .init)).len ∧
      (without 15 (running (ramp 16) .init)).len.toNat ≤ 96) ∧
    RefusedAt (without 15 (running (ramp 16) .init)) 0 16 ∧ RefusedAt (without 7 (running (ramp 97) .init)) 0 8 ∧
    RefusedAt (without 63 naAfterInit) naAfterInit.pos 64 ∧ RefusedAt (without 63 uoAfterInit) uoAfterInit.pos 64 ∧
    RefusedAt (without 96 naAfterBlock) (naAfterBlock.len - 64) 64 ∧
    RefusedAt (without 256 uoAfterBlocks) (uoAfterBlocks.len - 64) 64 :=
  ⟨by decide +kernel, ⟨15, by decide +kernel, by decide +kernel⟩, ⟨7, by decide +kernel, by decide +kernel⟩,
    ⟨63, by decide +kernel, by decide +kernel⟩, ⟨63, by decide +kernel, by decide +kernel⟩, ⟨63, by decide +kernel, by decide +kernel⟩,
    ⟨63, by decide +kernel, by decide +kernel⟩⟩

/-- Out of phase, in the other tier, and after a fault. -/
theorem witness_SequencerStepsNeed :
    State.reset.phase ≠ .init ∧ (running (ramp 97) .block).phase ≠ .init ∧ (running (ramp 257) .init).tier ≠ .na ∧
    (faulted naAfterInit).memFault = true := by decide +kernel

/-- For `H64naHashesItsWindow`, `H64uoHashesItsWindow` and, with `witness_StreamingRoutines`,
`StreamingRoutinesAreTheirSteps`. -/
theorem witness_whole_routines :
    (MachineInv (running (ramp 97) .init) ∧ Running (running (ramp 97) .init) (ramp 97) ∧
      (running (ramp 97) .init).phase = .init ∧ (running (ramp 97) .init).tier = .na) ∧
    (MachineInv (running (ramp 256) .init) ∧ (running (ramp 256) .init).tier = .na) ∧
    (MachineInv (running (ramp 257) .init) ∧ Running (running (ramp 257) .init) (ramp 257) ∧
      (running (ramp 257) .init).phase = .init ∧ (running (ramp 257) .init).tier = .uo) :=
  ⟨⟨inv (by decide +kernel), runs (by decide +kernel) (by decide +kernel), rfl, by decide +kernel⟩, ⟨inv (by decide +kernel), by decide +kernel⟩,
    inv (by decide +kernel), runs (by decide +kernel) (by decide +kernel), rfl, by decide +kernel⟩

/-- For `Hash64DigestIsTheHashOfTheWindow`, `Hash64OfNothingIsK2` and `Hash64DependsOnTheWindowOnly`: a held launch, and the same window elsewhere behind another split of base and offset. -/
theorem witness_Hash64 :
    LaunchReady (ready (ramp 33)) ∧ (ready (ramp 33)).length.toNat = (ramp 33).length ∧
    WindowHolds (ready (ramp 33)).mem ((ready (ramp 33)).base + (ready (ramp 33)).offset) (ramp 33) ∧
    LaunchReady { ready (ramp 33) with base := 0x1000, offset := 0, done := true, digest := 7 } ∧
    (ready []).length = 0 ∧ LaunchReady (ready []) :=
  ⟨launches rfl (by decide +kernel), by decide +kernel, holds (by decide +kernel), launches rfl (by decide +kernel), by decide +kernel,
    launches rfl (by decide +kernel)⟩

theorem witness_Hash64Faults :
    LaunchReady (without 256 (ready (ramp 257))) ∧
    ∃ k < (without 256 (ready (ramp 257))).length.toNat,
      memLookup (without 256 (ready (ramp 257))).mem ((without 256 (ready (ramp 257))).base +
        (without 256 (ready (ramp 257))).offset + BitVec.ofNat 64 k).toNat = none :=
  ⟨launches rfl (by decide +kernel), 256, by decide +kernel, by decide +kernel⟩

theorem witness_Hash64IsAcceptance :
    LaunchReady (ready (ramp 97)) ∧ (ready (ramp 97)).agenda = [] ∧
    (nextOf (exec .hash64 (ready (ramp 97)))).isSome = true :=
  ⟨launches rfl (by decide +kernel), rfl, by decide +kernel⟩

theorem witness_StreamingRoutines :
    (running (ramp 97) .init).agenda = [] ∧ (running (ramp 97) .init).memFault = false ∧
    (nextOf (exec .h64na (running (ramp 97) .init))).map State.memFault = some false ∧
    (nextOf (exec .h64uo (running (ramp 257) .init))).map State.memFault = some false := by decide +kernel

theorem witness_AcceptedCommandsComplete :
    MachineInv (running (ramp 96) .init) ∧ Running (running (ramp 96) .init) (ramp 96) ∧
    (running (ramp 96) .init).phase = .init ∧ (running (ramp 96) .init).agenda = [] ∧
    1 < commandSteps (ramp 97).length ∧ 0 < commandSteps (ramp 96).length :=
  ⟨inv (by decide +kernel), runs (by decide +kernel) (by decide +kernel), rfl, rfl, by decide +kernel, by decide +kernel⟩

theorem witness_MemFaultHolds :
    MachineInv (faulted (running (ramp 3) .init)) ∧ (faulted (running (ramp 3) .init)).memFault = true ∧
    (nextOf (step (pending (.host (.read .cr3)) (faulted (running (ramp 3) .init))))).isSome = true ∧
    (faulted (running (ramp 3) .init)).agenda = [] ∧
    (pending (.host .wait) (faulted (running (ramp 3) .init))).agenda = .host .wait :: [] :=
  ⟨inv (by decide +kernel), rfl, by decide +kernel, rfl, rfl⟩

/-- For `HostWritesOperandsOnlyWhileNotBusy` and `HostReadsWhatTheRegistersHold`. -/
theorem witness_host_port :
    ((pending (.host (.write .cr0 5)) (ready [])).agenda = .host (.write .cr0 5) :: [] ∧
      (pending (.host (.write .cr1 5)) (ready [])).agenda = .host (.write .cr1 5) :: [] ∧
      (pending (.host (.write .cr2 5)) (ready [])).agenda = .host (.write .cr2 5) :: [] ∧
      (pending (.host (.write .cr3 1)) (ready [])).agenda = .host (.write .cr3 1) :: [] ∧
      (pending (.host (.write .cr4 5)) (ready [])).agenda = .host (.write .cr4 5) :: []) ∧
    ((pending (.host (.read .cr0)) (ready [])).agenda = .host (.read .cr0) :: [] ∧
      (pending (.host (.read .cr1)) (ready [])).agenda = .host (.read .cr1) :: [] ∧
      (pending (.host (.read .cr2)) (ready [])).agenda = .host (.read .cr2) :: [] ∧
      (pending (.host (.read .cr3)) (ready [])).agenda = .host (.read .cr3) :: [] ∧
      (pending (.host (.read .cr4)) (ready [])).agenda = .host (.read .cr4) :: [] ∧
      (pending (.host (.read .cr4)) (ready [])).done = false ∧
      (pending (.host (.read .cr4)) { ready [] with done := true }).done = true) := by decide +kernel

/-- `wait` in each phase and tier its clauses name. -/
theorem witness_Wait :
    (∀ s ∈ [{ ready [] with done := true }, running (ramp 3) .init, naAfterInit, uoAfterInit, naAfterBlock,
      uoAfterBlocks], (pending (.host .wait) s).agenda = .host .wait :: [] ∧ (pending (.host .wait) s).memFault = false) ∧
    ({ ready [] with done := true } : State).done = true ∧
    ((running (ramp 3) .init).done = false ∧ (running (ramp 3) .init).phase = .init) ∧
    (naAfterInit.done = false ∧ naAfterInit.phase = .block ∧ naAfterInit.tier = .na) ∧
    (uoAfterInit.done = false ∧ uoAfterInit.phase = .block ∧ uoAfterInit.tier = .uo) ∧
    (naAfterBlock.done = false ∧ naAfterBlock.phase = .final ∧ naAfterBlock.tier = .na) ∧
    (uoAfterBlocks.done = false ∧ uoAfterBlocks.phase = .final ∧ uoAfterBlocks.tier = .uo) := by decide +kernel

/-- A completed command whose host writes an operand register, and one whose host starts the next command. -/
theorem witness_DigestStays :
    MachineInv (pending (.host (.write .cr0 5)) { ready [] with done := true }) ∧
    (nextOf (step (pending (.host (.write .cr0 5)) { ready [] with done := true }))).isSome = true ∧
    (∀ rest, (pending (.host (.write .cr0 5)) { ready [] with done := true }).agenda ≠ .host .reset :: rest) ∧
    (∀ bytes rest, (pending (.host (.write .cr0 5)) { ready [] with done := true }).agenda ≠ .label bytes :: rest) ∧
    (nextOf (step (pending (.host (.write .cr3 1)) { ready [] with done := true }))).map State.busy = some true :=
  ⟨inv (by decide +kernel), by decide +kernel, nofun, nofun, by decide +kernel⟩

/-- Each clause: a turn refused, a turn that stays and one that changes, a use begun by an operand write, a command
begun, a use ended by the read of the digest and one by reset. -/
theorem witness_OneAgent :
    ((pending (.agent 1) { ready [] with use := .operands }).agenda = .agent 1 :: [] ∧
      1 ≠ ({ ready [] with use := .operands } : State).agent ∧
      ({ ready [] with use := .operands } : State).use ≠ .free) ∧
    (nextOf (step (pending (.agent 0) { ready [] with use := .command }))).map State.agent = some 0 ∧
    ((ready []).agent ≠ 1 ∧ (nextOf (step (pending (.agent 1) (ready [])))).map State.agent = some 1) ∧
    ((ready []).use = .free ∧
      (nextOf (step (pending (.host (.write .cr2 0)) (ready [])))).map State.use = some .operands) ∧
    (nextOf (step (pending (.host (.write .cr3 1)) { ready [] with use := .operands }))).map State.use = some .command ∧
    (nextOf (step (pending (.host (.read .cr4)) { ready [] with done := true, use := .command }))).map State.use =
      some .free ∧
    (nextOf (step (pending (.host .reset) { ready [] with use := .operands }))).map State.use = some .free := by
  decide +kernel

end Sys2Proof.Machine.Tests
end

section
/-! PROOF. The memory port of spec/20_memory.md R53: what a read of held bytes returns, and which address a refused
read names. -/

namespace Sys2Proof.Machine

/-- The little-endian sum inside a byte sequence is the sum over the bytes cut out of it. -/
theorem leSum_eq_leSum_take_drop (B : List Byte) (i size : Nat) :
    leSum B i size = leSum ((B.drop i).take size) 0 size := by
  unfold leSum
  congr 1
  refine List.map_congr_left fun k hk => ?_
  have hlt : k < size := List.mem_range.mp hk
  simp [List.getD_eq_getElem?_getD, List.getElem?_take_of_lt hlt]

/-- A word of a byte sequence is the sum of R53. -/
theorem wordOf_eq_ofNat_leSum {B : List Byte} {i size : Nat} (h : i + size ≤ B.length) :
    wordOf B i size = BitVec.ofNat 64 (leSum B i size) := by
  have hlen : ((B.drop i).take size).length = size := by simp; omega
  apply BitVec.eq_of_toNat_eq
  rw [wordOf, leU64_toNat, hlen, leSum_eq_leSum_take_drop, BitVec.toNat_ofNat]
  simp only [leSum, Nat.zero_add]

/-- A `MemFault` of a read names one of the addresses read, and memory admits no byte there. -/
theorem refused_of_memRead_error {m : Memory} {a e : Addr} {n : Nat} (h : memRead m a n = .error e) :
    ∃ k < n, e = a + BitVec.ofNat 64 k ∧ memLookup m (a + BitVec.ofNat 64 k).toNat = none := by
  obtain ⟨bs, hr, -, -⟩ | ⟨k, hk, hr, hnone⟩ := readBytes_cases m a n
  · simp [memRead, hr] at h
  · simp only [memRead, hr, Except.error.injEq] at h
    exact ⟨k, hk, h.symm, hnone⟩

/-- Settles O11: a held window is read as its word at offset 0, and the error of a refused read is traced back to
the refused address. Neither half depends on the three sizes of the statement. -/
theorem memReadIsTheLittleEndianSum : Obligations.MemReadIsTheLittleEndianSum := by
  intro m a n _
  refine ⟨fun B hlen holds => ?_, fun hrefused => ?_⟩
  · calc memRead m a n
        = memRead m (a + 0#64) n := by rw [BitVec.add_zero]
      _ = .ok (wordOf B 0 n) := memRead_of_holds holds 0#64 n (by simp [hlen])
      _ = .ok (BitVec.ofNat 64 (leSum B 0 n)) := by rw [wordOf_eq_ofNat_leSum (by omega)]
  · obtain ⟨e, he⟩ := memRead_refused hrefused
    obtain ⟨k, hk, rfl, hnone⟩ := refused_of_memRead_error he
    exact ⟨k, hk, he, hnone⟩

end Sys2Proof.Machine
end

section
/-! PROOF. The dispatcher and the command of spec/40_command_dispatch.md: the tier code a launch latches (R102), and the
digest of a command over a held window (R106, R107), which is the reference function of the window's bytes whatever else
the state holds. -/

namespace Sys2Proof.Machine

/-! ### The dispatcher -/

/-- The six ranges of R102 and the tier code of each. -/
theorem dispatch_code_of_length (n : Len) :
    (n.toNat ≤ 16 → (dispatch n).code = 0) ∧
    (16 < n.toNat → n.toNat ≤ 32 → (dispatch n).code = 1) ∧
    (32 < n.toNat → n.toNat ≤ 64 → (dispatch n).code = 2) ∧
    (64 < n.toNat → n.toNat ≤ 96 → (dispatch n).code = 3) ∧
    (96 < n.toNat → n.toNat ≤ 256 → (dispatch n).code = 4) ∧
    (256 < n.toNat → (dispatch n).code = 5) := by
  obtain ⟨hn, e⟩ | ⟨lo, hi, e⟩ | ⟨lo, hi, e⟩ | ⟨lo, hi, e⟩ | ⟨lo, hi, e⟩ | ⟨lo, e⟩ := dispatch_eq n
  · rw [e]
    exact ⟨fun _ => rfl, by omega, by omega, by omega, by omega, by omega⟩
  · rw [e]
    exact ⟨by omega, fun _ _ => rfl, by omega, by omega, by omega, by omega⟩
  · rw [e]
    exact ⟨by omega, by omega, fun _ _ => rfl, by omega, by omega, by omega⟩
  · rw [e]
    exact ⟨by omega, by omega, by omega, fun _ _ => rfl, by omega, by omega⟩
  · rw [e]
    exact ⟨by omega, by omega, by omega, by omega, fun _ _ => rfl, by omega⟩
  · rw [e]
    exact ⟨by omega, by omega, by omega, by omega, by omega, fun _ => rfl⟩

/-- Settles O33: an accepted launch latches the tier of its length, whose code is that of its range. -/
theorem dispatchIsByLengthAlone : Obligations.DispatchIsByLengthAlone := by
  intro s h
  refine ⟨accept (latch s), startAccept_of_ready h, ?_⟩
  rw [accept_tier, latch_tier]
  exact dispatch_code_of_length s.length

/-! ### Offsets counted from the end of a running window -/

section RunningWindow

variable {s : State} {B : List Byte}

/-- The latched length as the reference function forms it. -/
theorem Running.len_eq (h : Running s B) : s.len = BitVec.ofNat 64 B.length := by
  rw [← h.size, BitVec.ofNat_toNat, BitVec.setWidth_eq]

theorem Running.len_sub_toNat (h : Running s B) {k : Len} (hk : k.toNat ≤ B.length) :
    (s.len - k).toNat = B.length - k.toNat := by
  rw [← h.size, BitVec.toNat_sub_of_le (by rw [BitVec.le_def, h.size]; exact hk)]

theorem Running.len_half_toNat (h : Running s B) : (s.len >>> 1).toNat = B.length / 2 := by
  rw [BitVec.toNat_ushiftRight, h.size, Nat.shiftRight_eq_div_pow, Nat.pow_one]

theorem Running.memRead_back (h : Running s B) {k : Len} {n : Nat} (hn : n ≤ k.toNat) (hk : k.toNat ≤ B.length) :
    memRead s.mem (s.startAddr + (s.len - k)) n = .ok (wordOf B (B.length - k.toNat) n) := by
  rw [memRead_of_holds h.holds _ n (by rw [h.len_sub_toNat hk]; omega), h.len_sub_toNat hk]

theorem Running.fetch8_back (h : Running s B) {k : Len} (hn : 1 ≤ k.toNat) (hk : k.toNat ≤ B.length) :
    fetch8 s (s.len - k) = .ok (wordOf B (B.length - k.toNat) 1) := h.memRead_back hn hk

theorem Running.fetch32_back (h : Running s B) {k : Len} (hn : 4 ≤ k.toNat) (hk : k.toNat ≤ B.length) :
    fetch32 s (s.len - k) = .ok (wordOf B (B.length - k.toNat) 4) := h.memRead_back hn hk

theorem Running.fetch64_back (h : Running s B) {k : Len} (hn : 8 ≤ k.toNat) (hk : k.toNat ≤ B.length) :
    fetch64 s (s.len - k) = .ok (wordOf B (B.length - k.toNat) 8) := h.memRead_back hn hk

theorem Running.fetchQuad_back (h : Running s B) {k : Len} (h32 : 32 ≤ k.toNat) (hk : k.toNat ≤ B.length) :
    fetchQuad s (s.len - k) = .ok (quadOf B (B.length - k.toNat)) := by
  rw [fetchQuad_of_holds h.holds h.length_lt _ (by rw [h.len_sub_toNat hk]; omega), h.len_sub_toNat hk]

/-! ### The routines of tiers 0 to 3 -/

theorem hl1to3Value_of_running (h : Running s B) (lo : 1 ≤ B.length) (hi : B.length ≤ 3) :
    hl1to3Value s = .ok (hashBytes B) := by
  have half : (s.len >>> 1).toNat + 1 ≤ B.length := by rw [h.len_half_toNat]; omega
  rw [hl1to3Value, fetch8_of_holds h.holds 0 lo, fetch8_of_holds h.holds _ half, h.len_half_toNat,
    h.fetch8_back (k := 1) (by decide) lo, h.len_eq, hashBytes,
    if_neg (by omega), if_pos hi]
  rfl

theorem hl4to7Value_of_running (h : Running s B) (lo : 4 ≤ B.length) (hi : B.length ≤ 7) :
    hl4to7Value s = .ok (hashBytes B) := by
  rw [hl4to7Value, fetch32_of_holds h.holds 0 lo, h.fetch32_back (k := 4) (by decide) lo, h.len_eq, hashBytes,
    if_neg (by omega), if_neg (by omega), if_pos hi]
  rfl

theorem hl8to16Value_of_running (h : Running s B) (lo : 8 ≤ B.length) (hi : B.length ≤ 16) :
    hl8to16Value s = .ok (hashBytes B) := by
  rw [hl8to16Value, fetch64_of_holds h.holds 0 lo, h.fetch64_back (k := 8) (by decide) lo, h.len_eq, hashBytes,
    if_neg (by omega), if_neg (by omega), if_neg (by omega), if_pos hi]
  rfl

/-- The second decode of R84 picks the branch of the reference function. -/
theorem hl0to16Value_of_running (h : Running s B) (hi : B.length ≤ 16) :
    hl0to16Value s = .ok (hashBytes B) := by
  unfold hl0to16Value
  rw [h.size]
  split
  · exact hl8to16Value_of_running h ‹_› hi
  · split
    · exact hl4to7Value_of_running h ‹_› (by omega)
    · split
      · exact hl1to3Value_of_running h ‹_› (by omega)
      · rw [hashBytes, if_pos (by omega), hl0Value]

theorem hl17to32Value_of_running (h : Running s B) (lo : 17 ≤ B.length) (hi : B.length ≤ 32) :
    hl17to32Value s = .ok (hashBytes B) := by
  rw [hl17to32Value, fetch64_of_holds h.holds 0 (by simp; omega), fetch64_of_holds h.holds 8 (by simp; omega),
    h.fetch64_back (k := 8) (by decide) (by simp; omega), h.fetch64_back (k := 16) (by decide) (by simp; omega),
    h.len_eq, hashBytes,
    if_neg (by omega), if_neg (by omega), if_neg (by omega), if_neg (by omega), if_pos hi]
  rfl

theorem hl33to64Value_of_running (h : Running s B) (lo : 33 ≤ B.length) (hi : B.length ≤ 64) :
    hl33to64Value s = .ok (hashBytes B) := by
  rw [hl33to64Value, fetchQuad_of_holds h.holds h.length_lt 0 (by simp; omega),
    h.fetchQuad_back (k := 32) (by decide) (by simp; omega), h.len_eq, hashBytes,
    if_neg (by omega), if_neg (by omega), if_neg (by omega), if_neg (by omega), if_neg (by omega), if_pos hi]
  rfl

theorem hl65to96Value_of_running (h : Running s B) (lo : 65 ≤ B.length) (hi : B.length ≤ 96) :
    hl65to96Value s = .ok (hashBytes B) := by
  rw [hl65to96Value, fetchQuad_of_holds h.holds h.length_lt 0 (by simp; omega),
    fetchQuad_of_holds h.holds h.length_lt 32 (by simp; omega),
    h.fetchQuad_back (k := 32) (by decide) (by simp; omega), h.len_eq, hashBytes,
    if_neg (by omega), if_neg (by omega), if_neg (by omega), if_neg (by omega), if_neg (by omega),
    if_neg (by omega), if_pos hi]
  rfl

/-- `RUN_TIER` of a length up to 96 completes with the hash of the window (R103). -/
theorem runTier_of_short (h : Running s B) (ht : s.tier = dispatch s.len) (hi : B.length ≤ 96) :
    runTier s = .ok (complete (hashBytes B) s) := by
  have size := h.size
  unfold runTier
  obtain ⟨hn, e⟩ | ⟨lo, hn, e⟩ | ⟨lo, hn, e⟩ | ⟨lo, hn, e⟩ | ⟨lo, -, -⟩ | ⟨lo, -⟩ := dispatch_eq s.len
  · simp only [ht, e, hl0to16Value_of_running h (by omega), except_map_ok]
  · simp only [ht, e, hl17to32Value_of_running h (by omega) (by omega), except_map_ok]
  · simp only [ht, e, hl33to64Value_of_running h (by omega) (by omega), except_map_ok]
  · simp only [ht, e, hl65to96Value_of_running h (by omega) hi, except_map_ok]
  · omega
  · omega

/-! ### The streaming routines -/

@[simp] theorem loopDone_len (w : Work) (s : State) : (loopDone w s).len = s.len := (rfl)
@[simp] theorem loopDone_memFault (w : Work) (s : State) : (loopDone w s).memFault = s.memFault := (rfl)

/-- A streaming routine over a held window: the seeded registers absorb every block, and `FINAL` works on the last 64
bytes at the end of the loop. -/
theorem runStream_of_running {init block final : State → Except Addr State} {mix : Block → Work → Work}
    {finish : State → Block → State} {seed : Work} (h : Running s B) (h97 : 97 ≤ B.length)
    (hend : s.endOff.toNat = (B.length - 1) / 64 * 64)
    (hinit : init s = .ok (enterLoop (setWork seed s)))
    (hblock : ∀ t, block t = (fetchBlock t t.pos).map fun b => advanceBlock (setWork (mix b t.work) t))
    (hfinal : ∀ t, final t = (fetchBlock t (lastOffset t.len)).map (finish t)) :
    runStream init block final s =
      finish (loopDone (absorbBlocks mix B ((B.length - 1) / 64) 0 seed) s) (blockOf B (B.length - 64)) := by
  obtain ⟨k, hk⟩ : ∃ k, (B.length - 1) / 64 = k + 1 := ⟨(B.length - 1) / 64 - 1, by omega⟩
  have count : blockCount s.endOff = k + 1 := by rw [blockCount, hend]; omega
  have entered : Running (enterLoop (setWork seed s)) B := h.of_same (by simp) (by simp) (by simp) (by simp) (by simp)
  have loop : runBlocks block (k + 1) (enterLoop (setWork seed s)) =
      loopDone (absorbBlocks mix B (k + 1) 0 seed) s := by
    rw [runBlocks_of_holds block mix hblock B k _ entered (by simp) (by simp; omega) (by simp; omega),
      loopDone_enterLoop]
    simp
  have last : (lastOffset s.len).toNat = B.length - 64 := by
    rw [lastOffset_toNat (by rw [h.size]; omega), h.size]
  have looped : Running (loopDone (absorbBlocks mix B (k + 1) 0 seed) s) B :=
    h.of_same (by simp [loopDone]) rfl rfl rfl rfl
  have read : fetchBlock (loopDone (absorbBlocks mix B (k + 1) 0 seed) s) (lastOffset s.len) =
      .ok (blockOf B (B.length - 64)) := by
    rw [fetchBlock_of_holds looped.holds h.length_lt _ (by rw [last]; omega), last]
  simp [runStream, hinit, count, loop, h.noFault, hfinal, hk, read]

theorem naBlock_eq (t : State) :
    naBlock t = (fetchBlock t t.pos).map fun b => advanceBlock (setWork (naMix b t.work) t) := rfl

theorem naFinal_eq (t : State) : naFinal t = (fetchBlock t (lastOffset t.len)).map fun b =>
    releaseNa (complete (naDigest (naFinalMix (tailLength t.len) b t.work)) t) := rfl

theorem uoBlock_eq (t : State) :
    uoBlock t = (fetchBlock t t.pos).map fun b => advanceBlock (setWork (uoMix b t.work) t) := rfl

theorem uoFinal_eq (t : State) : uoFinal t = (fetchBlock t (lastOffset t.len)).map fun b =>
    releaseUo (complete (uoDigest (uoFinalMix (tailLength t.len) b t.work)) t) := rfl

theorem Running.tailLength_eq (h : Running s B) (h1 : 1 ≤ B.length) :
    tailLength s.len = BitVec.ofNat 64 ((B.length - 1) % 64) := by
  rw [Machine.tailLength_eq (by rw [h.size]; exact h1), h.size]

/-- What the NA tier finds in `U` and `MUL` does not reach its digest: the reference function may start from zeros. -/
theorem naDigest_of_seed (tail first : U64) (last : Block) (k : Nat) (w : Work) :
    naDigest (naFinalMix tail last (absorbBlocks naMix B k 0 (naSeed first w))) =
      naDigest (naFinalMix tail last (absorbBlocks naMix B k 0 (naSeed first Work.zero))) := by
  have seeds : naSeed first w = { naSeed first Work.zero with u := w.u, mul := w.mul } := rfl
  rw [seeds, absorbBlocks_na_with_u_mul, naFinalMix_with_u_mul]
  rfl

theorem runNa_of_running (h : Running s B) (lo : 97 ≤ B.length) (hi : B.length ≤ 256)
    (hend : s.endOff.toNat = (B.length - 1) / 64 * 64) :
    ∃ w, runNa s = releaseNa (complete (hashBytes B) (loopDone w s)) := by
  have init : naInit s = .ok (enterLoop (setWork (naSeed (wordOf B 0 8) s.work) s)) := by
    rw [naInit, fetch64_of_holds h.holds 0 (by simp; omega)]
    rfl
  have digest : hashBytes B = naDigest (naFinalMix (tailLength s.len) (blockOf B (B.length - 64))
      (absorbBlocks naMix B ((B.length - 1) / 64) 0 (naSeed (wordOf B 0 8) s.work))) := by
    rw [naDigest_of_seed, h.tailLength_eq (by omega), hashBytes,
      if_neg (by omega), if_neg (by omega), if_neg (by omega), if_neg (by omega), if_neg (by omega),
      if_neg (by omega), if_neg (by omega), if_pos hi]
    rfl
  refine ⟨absorbBlocks naMix B ((B.length - 1) / 64) 0 (naSeed (wordOf B 0 8) s.work), ?_⟩
  rw [runNa, runStream_of_running h lo hend init naBlock_eq naFinal_eq, digest]
  rfl

theorem runUo_of_running (h : Running s B) (lo : 257 ≤ B.length)
    (hend : s.endOff.toNat = (B.length - 1) / 64 * 64) :
    runUo s = releaseUo (complete (hashBytes B) (loopDone (uoAbsorbed B) s)) := by
  have digest : hashBytes B =
      uoDigest (uoFinalMix (tailLength s.len) (blockOf B (B.length - 64)) (uoAbsorbed B)) := by
    rw [h.tailLength_eq (by omega), hashBytes,
      if_neg (by omega), if_neg (by omega), if_neg (by omega), if_neg (by omega), if_neg (by omega),
      if_neg (by omega), if_neg (by omega), if_neg (by omega)]
  rw [runUo, runStream_of_running h (by omega) hend rfl uoBlock_eq uoFinal_eq, digest]
  rfl

/-! ### The whole command -/

/-- An accepted command over a held window completes with the hash of the window's bytes. -/
theorem runCommand_of_running (h : Running s B) (ht : s.tier = dispatch s.len)
    (hend : 97 ≤ B.length → s.endOff.toNat = (B.length - 1) / 64 * 64) :
    (runCommand s).digest = hashBytes B ∧ (runCommand s).done = true ∧ (runCommand s).memFault = false := by
  have size := h.size
  have short : B.length ≤ 96 → commit s (runTier s) = complete (hashBytes B) s := fun hi => by
    rw [runTier_of_short h ht hi, commit_ok]
  obtain ⟨hn, e⟩ | ⟨-, hn, e⟩ | ⟨-, hn, e⟩ | ⟨-, hn, e⟩ | ⟨lo, hn, e⟩ | ⟨lo, e⟩ := dispatch_eq s.len
  · simp [runCommand, ht, e, short (by omega), h.noFault]
  · simp [runCommand, ht, e, short (by omega), h.noFault]
  · simp [runCommand, ht, e, short (by omega), h.noFault]
  · simp [runCommand, ht, e, short (by omega), h.noFault]
  · obtain ⟨w, hw⟩ := runNa_of_running h (by omega) (by omega) (hend (by omega))
    simp [runCommand, ht, e, hw, h.noFault]
  · simp [runCommand, ht, e, runUo_of_running h (by omega) (hend (by omega)), h.noFault]

/-- `END` as latched for a streaming length, as a number (R31). -/
theorem latch_endOff_toNat (h97 : 97 ≤ s.length.toNat) :
    (latch s).endOff.toNat = (s.length.toNat - 1) / 64 * 64 := by
  rw [latch_endOff, if_pos (by simpa [streams] using h97), blockLimit_toNat (by omega)]

/-- `HASH64` of a launch over a held window completes with the reference digest of the window's bytes (R100). -/
theorem hash64_of_ready (h : LaunchReady s) (hl : s.length.toNat = B.length)
    (hw : WindowHolds s.mem (s.base + s.offset) B) :
    ∃ t, exec .hash64 s = .next t ∧ t.digest = hashBytes B ∧ t.done = true ∧ t.memFault = false := by
  refine ⟨runCommand (accept (latch s)), execHash64_of_ready h,
    runCommand_of_running (running_of_ready h hl hw) rfl fun h97 => ?_⟩
  rw [accept_endOff, latch_endOff_toNat (by omega), hl]

/-- An empty window meets the contract for every base and offset: it has no address that could wrap or
touch a device. -/
theorem launchReady_of_empty (hidle : s.phase = .idle) (hf : s.memFault = false) (hb : s.baseWritten = true)
    (ho : s.offsetWritten = true) (hn : s.lengthWritten = true) (h0 : s.length = 0) : LaunchReady s where
  idle := hidle
  noFault := hf
  baseWritten := hb
  offsetWritten := ho
  lengthWritten := hn
  fits hne := absurd h0 hne
  noDevice d _ a hlo hhi := by
    rw [h0] at hhi
    exact absurd hhi (by simpa using hlo)

end RunningWindow

/-- Settles O48: the empty window is a launch that meets the contract, any memory holds its bytes, and the reference
function of no bytes is `K2`. -/
theorem hash64OfNothingIsK2 : Obligations.Hash64OfNothingIsK2 := by
  intro s hidle hf hb ho hn h0
  have ready := launchReady_of_empty hidle hf hb ho hn h0
  obtain ⟨t, hexec, hdigest, hdone, hfault⟩ := hash64_of_ready (B := []) ready (by simp [h0]) (by simp [WindowHolds])
  exact ⟨t, hexec, hdigest, hdone, hfault⟩

/-- Settles O49: both launches end with the reference digest of the bytes their windows share. -/
theorem hash64DependsOnTheWindowOnly : Obligations.Hash64DependsOnTheWindowOnly := by
  intro s s' B ready ready' hl hl' hw hw'
  obtain ⟨t, hexec, hdigest, hdone, -⟩ := hash64_of_ready ready hl hw
  obtain ⟨t', hexec', hdigest', hdone', -⟩ := hash64_of_ready ready' hl' hw'
  exact ⟨t, t', hexec, hexec', hdigest.trans hdigest'.symm, hdone, hdone'⟩

end Sys2Proof.Machine
end

section
/-! PROOF. The label words of spec/30_encoding.md R85 and R86: decoding undoes encoding, and nothing but an encoding
decodes. -/

namespace Sys2Proof.Machine

/-! ### The operands that are single bytes -/

theorem takeCount_of_lt {r : Byte} (h : r.toNat < 64) (rest : List Byte) :
    takeCount (r :: rest) = .ok (r, rest) := if_pos h

/-- What taking a rotate count off says of the bytes (R123). -/
theorem takeCount_ok {bs rest : List Byte} {r : Byte} (h : takeCount bs = .ok (r, rest)) :
    r.toNat < 64 ∧ bs = r :: rest := by
  unfold takeCount at h
  split at h
  · cases h
  · split at h
    · cases h
      exact ⟨‹_›, rfl⟩
    · cases h

@[simp] theorem takeHuoCount_huoByte (r : HuoCount) (rest : List Byte) :
    takeHuoCount (huoByte r :: rest) = .ok (r, rest) := by
  cases r <;> rfl

/-- What taking a count of `HUO` off says of the bytes (R200). -/
theorem takeHuoCount_ok {bs rest : List Byte} {r : HuoCount} (h : takeHuoCount bs = .ok (r, rest)) :
    bs = huoByte r :: rest := by
  unfold takeHuoCount at h
  split at h
  · cases h
  · split_ifs at h with h0 h1
    · cases h
      rw [h0]
      rfl
    · cases h
      rw [h1]
      rfl

/-! ### From an operation to its bytes and back -/

/-- Behind the label of a well-formed operation its operand bytes decode to it. -/
theorem decodeOperands_operandBytes (i : Instr) (rest : List Byte) (h : i.wellFormed = true) :
    decodeOperands (opid i) (operandBytes i ++ rest) = .ok (i, rest) := by
  cases i with
  | rotr64 v r =>
    have hr : r.toNat < 64 := of_decide_eq_true h
    simp [decodeOperands, opid, operandBytes, takeCount_of_lt hr]
  | _ => simp [decodeOperands, opid, operandBytes]

/-- Settles O1: the label picks the row, and each operand is read off the bytes its row writes. -/
theorem decodeOfEncodeIsTheInstruction : Obligations.DecodeOfEncodeIsTheInstruction := fun i rest h =>
  decodeOperands_operandBytes i rest h

/-! ### From bytes to an operation and back -/

/-- The bytes behind the label `op` are those of the operation `i`, with `rest` after them. -/
def EncodedBy (op : Byte) (bs : List Byte) (i : Instr) (rest : List Byte) : Prop :=
  i.wellFormed = true ∧ opid i = op ∧ bs = operandBytes i ++ rest

theorem except_bind_eq_ok {ε α β : Type} {x : Except ε α} {f : α → Except ε β} {b : β} (h : (x >>= f) = .ok b) :
    ∃ a, x = .ok a ∧ f a = .ok b := by
  cases x with
  | ok a => exact ⟨a, rfl, h⟩
  | error e => cases h

/-- A row without operands leaves the bytes as they are. -/
theorem encodedBy_of_bare {op : Byte} {bs rest : List Byte} {i j : Instr}
    (h : (Except.ok (j, bs) : Except DecodeError (Instr × List Byte)) = .ok (i, rest))
    (hj : j.wellFormed = true ∧ opid j = op ∧ operandBytes j = []) : EncodedBy op bs i rest := by
  obtain ⟨hwf, hop, hbytes⟩ := hj
  cases h
  exact ⟨hwf, hop, by rw [hbytes]; rfl⟩

/-- A row that begins with a word: the word was in front, and the rest of the row decodes what stands behind it. -/
theorem word_of_bind {bs rest : List Byte} {i : Instr} {f : U64 × List Byte → Except DecodeError (Instr × List Byte)}
    (h : (takeU64 bs >>= f) = .ok (i, rest)) : ∃ v after, bs = u64Bytes v ++ after ∧ f (v, after) = .ok (i, rest) := by
  obtain ⟨⟨v, after⟩, ht, hf⟩ := except_bind_eq_ok h
  exact ⟨v, after, takeU64_ok ht, hf⟩

theorem decodeOperands_ok {op : Byte} {bs rest : List Byte} {i : Instr} (h : decodeOperands op bs = .ok (i, rest)) :
    EncodedBy op bs i rest := by
  have label : ∀ {n : Nat}, op.toNat = n → BitVec.ofNat 8 n = op := fun hn => by
    rw [← hn, BitVec.ofNat_toNat, BitVec.setWidth_eq]
  unfold decodeOperands at h
  split at h
  all_goals rename_i hop
  -- the rows without operands
  case h_1 | h_2 | h_3 | h_4 | h_5 | h_6 | h_7 | h_8 | h_9 | h_10 | h_11 | h_22 | h_23 | h_24 | h_25 | h_26 | h_27 |
      h_28 | h_29 => exact encodedBy_of_bare h ⟨rfl, label hop, rfl⟩
  -- the rows of one word
  case h_12 | h_13 | h_14 | h_16 =>
    obtain ⟨v, after, hbs, hrow⟩ := word_of_bind h
    cases hrow
    exact ⟨rfl, label hop, hbs⟩
  -- `ROTR64`, a word and a count
  case h_15 =>
    obtain ⟨v, bs1, hbs, hrow⟩ := word_of_bind h
    obtain ⟨⟨r, bs2⟩, hcount, hrow⟩ := except_bind_eq_ok hrow
    obtain ⟨hr, hbs1⟩ := takeCount_ok hcount
    cases hrow
    exact ⟨decide_eq_true hr, label hop, by simp [operandBytes, hbs, hbs1]⟩
  -- the rows of three words
  case h_17 | h_20 =>
    obtain ⟨u, bs1, hbs, hrow⟩ := word_of_bind h
    obtain ⟨v, bs2, hbs1, hrow⟩ := word_of_bind hrow
    obtain ⟨w, bs3, hbs2, hrow⟩ := word_of_bind hrow
    cases hrow
    exact ⟨rfl, label hop, by simp [operandBytes, hbs, hbs1, hbs2]⟩
  -- `H32`, four words
  case h_18 =>
    obtain ⟨o, bs1, hbs, hrow⟩ := word_of_bind h
    obtain ⟨mul, bs2, hbs1, hrow⟩ := word_of_bind hrow
    obtain ⟨seed0, bs3, hbs2, hrow⟩ := word_of_bind hrow
    obtain ⟨seed1, bs4, hbs3, hrow⟩ := word_of_bind hrow
    cases hrow
    exact ⟨rfl, label hop, by simp [operandBytes, hbs, hbs1, hbs2, hbs3]⟩
  -- `WEAK32`, six words
  case h_19 =>
    obtain ⟨w, bs1, hbs, hrow⟩ := word_of_bind h
    obtain ⟨x, bs2, hbs1, hrow⟩ := word_of_bind hrow
    obtain ⟨y, bs3, hbs2, hrow⟩ := word_of_bind hrow
    obtain ⟨z, bs4, hbs3, hrow⟩ := word_of_bind hrow
    obtain ⟨a, bs5, hbs4, hrow⟩ := word_of_bind hrow
    obtain ⟨b, bs6, hbs5, hrow⟩ := word_of_bind hrow
    cases hrow
    exact ⟨rfl, label hop, by simp [operandBytes, hbs, hbs1, hbs2, hbs3, hbs4, hbs5]⟩
  -- `HUO`, three words and a count
  case h_21 =>
    obtain ⟨x, bs1, hbs, hrow⟩ := word_of_bind h
    obtain ⟨y, bs2, hbs1, hrow⟩ := word_of_bind hrow
    obtain ⟨mul, bs3, hbs2, hrow⟩ := word_of_bind hrow
    obtain ⟨⟨r, bs4⟩, hcount, hrow⟩ := except_bind_eq_ok hrow
    cases hrow
    exact ⟨rfl, label hop, by simp [operandBytes, hbs, hbs1, hbs2, takeHuoCount_ok hcount]⟩
  -- no row
  cases h

/-- Settles O2: whatever row the label picks, each of its operands was read off bytes that the row writes. -/
theorem decodedBytesAreTheEncoding : Obligations.DecodedBytesAreTheEncoding := by
  intro bs rest i h
  cases bs with
  | nil => cases h
  | cons op bs =>
    obtain ⟨hwf, hop, hbs⟩ := decodeOperands_ok h
    exact ⟨hwf, by rw [encode, hop, hbs]; rfl⟩

/-- Settles O3: each word is evaluated by the decoder. -/
theorem tableWordsDecodeToTheirRows : Obligations.TableWordsDecodeToTheirRows := by
  unfold Obligations.TableWordsDecodeToTheirRows
  decide

end Sys2Proof.Machine
end

section
/-! PROOF. What an operation can do to the state, said once: every operation of `exec` is a sequence of the guarded
updates of `CoreMove`, so that a property of every reachable state is proved of eight updates. -/

namespace Sys2Proof.Machine

/-- One update of the core, with the guard under which an operation makes it. -/
inductive CoreMove : State → State → Prop
  | stage (s : State) (r : StageResult) : CoreMove s (setStage r s)
  | fault (s : State) (running : s.phase ≠ .idle) : CoreMove s (recordMemFault s)
  | complete (s : State) (d : U64) (noFault : s.memFault = false) : CoreMove s (complete d s)
  | releaseNa (s : State) : CoreMove s (releaseNa s)
  | releaseUo (s : State) : CoreMove s (releaseUo s)
  | accept (s : State) (noFault : s.memFault = false) (contract : launchRefusal s = none) :
      CoreMove s (accept (latch s))
  | enterLoop (s : State) (w : Work) (init : s.phase = .init) (streams : s.tier = .na ∨ s.tier = .uo) :
      CoreMove s (enterLoop (setWork w s))
  | advanceBlock (s : State) (w : Work) (block : s.phase = .block) : CoreMove s (advanceBlock (setWork w s))

/-- Updates of the core, one after the other. -/
abbrev CoreMoves : State → State → Prop := Relation.ReflTransGen CoreMove

variable {s t : State}

/-! ### The frame of a streaming loop -/

/-- The command in progress goes on: the flags, the digest, the latches, the memory and what comes next are as
before. -/
structure SameCommand (s t : State) : Prop where
  busy : t.busy = s.busy
  done : t.done = s.done
  digest : t.digest = s.digest
  mem : t.mem = s.mem
  startAddr : t.startAddr = s.startAddr
  len : t.len = s.len
  endOff : t.endOff = s.endOff
  tier : t.tier = s.tier
  agenda : t.agenda = s.agenda
  running : s.phase ≠ .idle → t.phase ≠ .idle

theorem SameCommand.refl (s : State) : SameCommand s s := ⟨rfl, rfl, rfl, rfl, rfl, rfl, rfl, rfl, rfl, id⟩

theorem SameCommand.trans {u : State} (h : SameCommand s t) (k : SameCommand t u) : SameCommand s u where
  busy := k.busy.trans h.busy
  done := k.done.trans h.done
  digest := k.digest.trans h.digest
  mem := k.mem.trans h.mem
  startAddr := k.startAddr.trans h.startAddr
  len := k.len.trans h.len
  endOff := k.endOff.trans h.endOff
  tier := k.tier.trans h.tier
  agenda := k.agenda.trans h.agenda
  running hp := k.running (h.running hp)

theorem sameCommand_recordMemFault (s : State) : SameCommand s (recordMemFault s) := by
  constructor <;> simp

theorem sameCommand_enterLoop (w : Work) (s : State) : SameCommand s (enterLoop (setWork w s)) := by
  constructor <;> simp

theorem advanceBlock_phase_ne_idle (hp : s.phase ≠ .idle) : (advanceBlock s).phase ≠ .idle := by
  rw [advanceBlock_phase]
  split
  · exact Phase.noConfusion
  · exact hp

theorem sameCommand_advanceBlock (w : Work) (s : State) : SameCommand s (advanceBlock (setWork w s)) where
  busy := rfl
  done := rfl
  digest := rfl
  mem := rfl
  startAddr := rfl
  len := rfl
  endOff := rfl
  tier := rfl
  agenda := rfl
  running hp := advanceBlock_phase_ne_idle (s := setWork w s) hp

/-- A step that makes this update, whatever it writes into the working registers, is a block step of a tier. -/
def MovesOn (block : State → Except Addr State) : Prop :=
  ∀ s t, block s = .ok t → ∃ w, t = advanceBlock (setWork w s)

theorem movesOn_naBlock : MovesOn naBlock := fun _ _ => block_moves_on (.inl rfl)

theorem movesOn_uoBlock : MovesOn uoBlock := fun _ _ => block_moves_on (.inr rfl)

theorem sameCommand_runBlocks {block : State → Except Addr State} (hb : MovesOn block) (k : Nat) (s : State) :
    SameCommand s (runBlocks block k s) := by
  induction k generalizing s with
  | zero => exact .refl s
  | succ k ih =>
    unfold runBlocks
    split
    · obtain ⟨w, rfl⟩ := hb _ _ ‹_›
      exact (sameCommand_advanceBlock w s).trans (ih _)
    · exact sameCommand_recordMemFault s

/-! ### Each operation as a sequence of updates -/

theorem moves_commit {r : Except Addr State} (hp : s.phase ≠ .idle) (h : ∀ t, r = .ok t → CoreMoves s t) :
    CoreMoves s (commit s r) := by
  obtain ⟨t, e, ht⟩ | ⟨a, -, ht⟩ := commit_cases s r
  · rw [ht]
    exact h t e
  · rw [ht]
    exact .single (.fault s hp)

theorem moves_commit_stage {α : Type} {r : Except Addr α} {f : α → StageResult} (hp : s.phase ≠ .idle) :
    CoreMoves s (commit s (r.map fun v => setStage (f v) s)) :=
  moves_commit hp fun _ e => by
    obtain ⟨v, -, rfl⟩ := except_map_eq_ok e
    exact .single (.stage s (f v))

theorem moves_fetchingStage {α : Type} {i : Len} {size : Nat} {r : Except Addr α} {f : α → StageResult}
    (h : fetchingStage s i size (r.map fun v => setStage (f v) s) = .next t) : CoreMoves s t := by
  obtain ⟨hp, -, -, rfl⟩ := fetchingStage_next h
  exact moves_commit_stage hp

theorem moves_selectedRoutine {lo hi : Nat} {r : Except Addr U64} (h : selectedRoutine s lo hi r = .next t) :
    CoreMoves s t := by
  obtain ⟨hp, -, -, -, rfl⟩ := selectedRoutine_next h
  exact moves_commit_stage hp

/-- The guard of a sequencer step that a phase and a tier enable. -/
theorem enabled_in {p : Phase} {r : Tier} (he : (decide (s.phase = p) && decide (s.tier = r)) = true) :
    s.phase = p ∧ s.tier = r := by simpa using he

theorem moves_sequencerStep {p : Phase} {x : Tier} {r : Except Addr State} (hp : p ≠ .idle)
    (hr : s.phase = p → s.tier = x → s.memFault = false → ∀ t, r = .ok t → CoreMoves s t)
    (h : sequencerStep s (decide (s.phase = p) && decide (s.tier = x)) r = .next t) : CoreMoves s t := by
  obtain ⟨he, hf, rfl⟩ := sequencerStep_next h
  obtain ⟨rfl, rfl⟩ := enabled_in he
  exact moves_commit hp (hr rfl rfl hf)

theorem moves_naInit (hp : s.phase = .init) (ht : s.tier = .na) (h : naInit s = .ok t) : CoreMoves s t := by
  obtain ⟨first, -, rfl⟩ := naInit_ok h
  exact .single (.enterLoop s _ hp (.inl ht))

theorem moves_uoInit (hp : s.phase = .init) (ht : s.tier = .uo) (h : uoInit s = .ok t) : CoreMoves s t := by
  obtain rfl := uoInit_ok h
  exact .single (.enterLoop s _ hp (.inr ht))

theorem moves_block {block : State → Except Addr State} (hb : MovesOn block) (hp : s.phase = .block)
    (h : block s = .ok t) : CoreMoves s t := by
  obtain ⟨w, rfl⟩ := hb s t h
  exact .single (.advanceBlock s w hp)

theorem moves_naFinal (hf : s.memFault = false) (h : naFinal s = .ok t) : CoreMoves s t := by
  obtain ⟨b, -, rfl⟩ := naFinal_ok h
  exact .tail (.single (.complete s _ hf)) (.releaseNa _)

theorem moves_uoFinal (hf : s.memFault = false) (h : uoFinal s = .ok t) : CoreMoves s t := by
  obtain ⟨b, -, rfl⟩ := uoFinal_ok h
  exact .tail (.single (.complete s _ hf)) (.releaseUo _)

theorem moves_runTier (hp : s.phase = .init) (hf : s.memFault = false) (h : runTier s = .ok t) : CoreMoves s t := by
  obtain ⟨d, rfl⟩ | ⟨ht, h⟩ | ⟨ht, h⟩ := runTier_ok h
  · exact .single (.complete s d hf)
  · exact moves_naInit hp ht h
  · exact moves_uoInit hp ht h

/-- Below `END` every block step of the loop finds the sequencer in `BLOCK`: it leaves the phase at `END` only. -/
theorem moves_runBlocks {block : State → Except Addr State} (hb : MovesOn block) (k : Nat) (s : State)
    (hp : s.phase = .block) (hk : s.pos.toNat + 64 * k ≤ s.endOff.toNat) : CoreMoves s (runBlocks block k s) := by
  induction k generalizing s with
  | zero => exact .refl
  | succ k ih =>
    unfold runBlocks
    split
    · obtain ⟨w, rfl⟩ := hb _ _ ‹_›
      refine .head (.advanceBlock s w hp) ?_
      have hpos : (s.pos + 64).toNat = s.pos.toNat + 64 := by
        have := s.endOff.isLt
        bv_omega
      cases k with
      | zero => exact .refl
      | succ k =>
        have hne : s.pos + 64 ≠ s.endOff := fun hc => by
          rw [← hc, hpos] at hk
          omega
        exact ih _ (by rw [advanceBlock_phase, setWork_pos, setWork_endOff, if_neg hne, setWork_phase, hp])
          (by rw [advanceBlock_pos, advanceBlock_endOff, setWork_pos, setWork_endOff, hpos]; omega)
    · exact .single (.fault s (by simp [hp]))

theorem moves_runStream {init block final : State → Except Addr State} (hp : s.phase = .init)
    (ht : s.tier = .na ∨ s.tier = .uo) (hi : ∀ t, init s = .ok t → ∃ w, t = enterLoop (setWork w s))
    (hb : MovesOn block) (hf : ∀ u v, u.memFault = false → final u = .ok v → CoreMoves u v) :
    CoreMoves s (runStream init block final s) := by
  unfold runStream
  split
  · exact .single (.fault s (by simp [hp]))
  · obtain ⟨w, rfl⟩ := hi _ ‹_›
    have entered : CoreMoves s (enterLoop (setWork w s)) := .single (.enterLoop s w hp ht)
    have looped := moves_runBlocks hb (blockCount s.endOff) (enterLoop (setWork w s)) rfl
      (by simp [blockCount]; omega)
    dsimp only
    split
    · exact entered.trans looped
    · rename_i hno
      have hphase := (sameCommand_runBlocks hb (blockCount s.endOff) (enterLoop (setWork w s))).running (by simp)
      exact (entered.trans looped).trans (moves_commit hphase fun v => hf _ v (Bool.eq_false_of_not_eq_true hno))

theorem moves_runNa (hp : s.phase = .init) (ht : s.tier = .na) : CoreMoves s (runNa s) :=
  moves_runStream hp (.inl ht)
    (fun _ h => by
      obtain ⟨first, -, rfl⟩ := naInit_ok h
      exact ⟨_, rfl⟩)
    movesOn_naBlock fun _ _ => moves_naFinal

theorem moves_runUo (hp : s.phase = .init) (ht : s.tier = .uo) : CoreMoves s (runUo s) :=
  moves_runStream hp (.inr ht) (fun _ h => ⟨_, uoInit_ok h⟩) movesOn_uoBlock fun _ _ => moves_uoFinal

theorem moves_runCommand (hp : s.phase = .init) (hf : s.memFault = false) : CoreMoves s (runCommand s) := by
  have single : CoreMoves s (commit s (runTier s)) := moves_commit (by simp [hp]) fun _ => moves_runTier hp hf
  unfold runCommand
  cases ht : s.tier with
  | na => exact moves_runNa hp ht
  | uo => exact moves_runUo hp ht
  | t0 | t1 | t2 | t3 => exact single

theorem moves_startAccept (h : startAccept s = .next t) : CoreMoves s t := by
  obtain ⟨-, rfl⟩ | ⟨-, hf, hn, rfl⟩ := startAccept_next h
  · exact .refl
  · exact .single (.accept s hf hn)

/-- What `HASH64` answers with a next state says: the START was ignored, or the accepted command was run. -/
theorem execHash64_next (h : execHash64 s = .next t) :
    (startIgnored s = true ∧ t = s) ∨
      (s.phase = .idle ∧ s.memFault = false ∧ launchRefusal s = none ∧ t = runCommand (accept (latch s))) := by
  unfold execHash64 at h
  split at h
  · cases h
    exact .inl ⟨‹_›, rfl⟩
  · split at h
    · cases h
      obtain ⟨hi, -⟩ | ⟨hp, hf, hn, rfl⟩ := startAccept_next ‹_›
      · contradiction
      · exact .inr ⟨hp, hf, hn, rfl⟩
    · cases h
    · cases h

theorem moves_execHash64 (h : execHash64 s = .next t) : CoreMoves s t := by
  obtain ⟨-, rfl⟩ | ⟨-, hf, hn, rfl⟩ := execHash64_next h
  · exact .refl
  · exact .head (.accept s hf hn) (moves_runCommand (accept_phase _) hf)

theorem execRotr64_next {v : U64} {r : Byte} (h : execRotr64 v r s = .next t) :
    r.toNat < 64 ∧ t = setStage (.word (rotr v r.toNat)) s := by
  unfold execRotr64 at h
  split at h
  · cases h
    exact ⟨‹_›, rfl⟩
  · cases h

/-- Every operation is a sequence of the guarded updates. -/
theorem exec_moves (i : Instr) (h : exec i s = .next t) : CoreMoves s t := by
  cases i with
  | hash64 => exact moves_execHash64 h
  | startAccept => exact moves_startAccept h
  | hl0to16 | hl17to32 | hl33to64 | hl65to96 | hl0 | hl1to3 | hl4to7 | hl8to16 => exact moves_selectedRoutine h
  | fetch8 | fetch32 | fetch64 | h32 | weak32s => exact moves_fetchingStage h
  | rotr64 v r =>
    obtain ⟨-, rfl⟩ := execRotr64_next h
    exact .single (.stage s _)
  | shiftmix | hashlen16 | weak32 | huo =>
    cases h
    exact .single (.stage s _)
  | h64na =>
    exact moves_sequencerStep Phase.noConfusion (fun hp ht _ t e => by cases e; exact moves_runNa hp ht) h
  | h64uo =>
    exact moves_sequencerStep Phase.noConfusion (fun hp ht _ t e => by cases e; exact moves_runUo hp ht) h
  | runTier =>
    obtain ⟨he, hf, rfl⟩ := sequencerStep_next h
    have hp : s.phase = .init := of_decide_eq_true he
    exact moves_commit (by simp [hp]) fun _ => moves_runTier hp hf
  | naInit => exact moves_sequencerStep Phase.noConfusion (fun hp ht _ _ => moves_naInit hp ht) h
  | naBlock => exact moves_sequencerStep Phase.noConfusion (fun hp _ _ _ => moves_block movesOn_naBlock hp) h
  | naFinal => exact moves_sequencerStep Phase.noConfusion (fun _ _ hf _ => moves_naFinal hf) h
  | uoInit => exact moves_sequencerStep Phase.noConfusion (fun hp ht _ _ => moves_uoInit hp ht) h
  | uoBlock => exact moves_sequencerStep Phase.noConfusion (fun hp _ _ _ => moves_block movesOn_uoBlock hp) h
  | uoFinal => exact moves_sequencerStep Phase.noConfusion (fun _ _ hf _ => moves_uoFinal hf) h

/-! ### What the updates keep -/

theorem CoreMove.machineInv (h : CoreMove s t) (inv : MachineInv s) : MachineInv t := by
  cases h with
  | stage r => exact inv.setStage r
  | fault hp => exact inv.recordMemFault hp
  | complete d hf => exact inv.complete hf d
  | releaseNa => exact inv.releaseNa
  | releaseUo => exact inv.releaseUo
  | accept hf hn => exact inv.accept hf hn
  | enterLoop w hp ht => exact inv.enterLoop hp ht w
  | advanceBlock w hp => exact (inv.setWork w).advanceBlock hp

theorem CoreMoves.machineInv (h : CoreMoves s t) (inv : MachineInv s) : MachineInv t := by
  induction h with
  | refl => exact inv
  | tail _ hmove ih => exact hmove.machineInv ih

/-- Every operation keeps the machine invariant. -/
theorem exec_machineInv (i : Instr) (inv : MachineInv s) (h : exec i s = .next t) : MachineInv t :=
  (exec_moves i h).machineInv inv

/-- The memory and the list of what the host has read are the host's side: no update of the core writes them. -/
theorem CoreMove.host_side (h : CoreMove s t) : t.mem = s.mem ∧ t.observed = s.observed := by
  cases h <;> exact ⟨rfl, rfl⟩

theorem CoreMoves.host_side (h : CoreMoves s t) : t.mem = s.mem ∧ t.observed = s.observed := by
  induction h with
  | refl => exact ⟨rfl, rfl⟩
  | tail _ hmove ih => exact ⟨hmove.host_side.1.trans ih.1, hmove.host_side.2.trans ih.2⟩

/-- No operation writes the host's side. -/
theorem exec_host_side (i : Instr) (h : exec i s = .next t) : t.mem = s.mem ∧ t.observed = s.observed :=
  (exec_moves i h).host_side

end Sys2Proof.Machine
end

section
/-! PROOF. One step of the machine, said once: what it is for each head of the agenda, and the cases of a step that
answers with a next state. -/

namespace Sys2Proof.Machine

variable {s t : State} {rest : List Event}

/-! ### The step for each head of the agenda -/

theorem step_core (h : s.agenda = .core :: rest) : step s = coreTurn { s with agenda := rest } := by
  rw [step, nextStep, h]

theorem step_label {bytes : List Byte} (h : s.agenda = .label bytes :: rest) :
    step s = runLabel bytes { s with agenda := rest } := by
  rw [step, nextStep, h]

theorem step_host {a : HostAction} (h : s.agenda = .host a :: rest) : step s = hostAct a rest s := by
  rw [step, nextStep, h]

theorem step_agent {n : Nat} (h : s.agenda = .agent n :: rest) : step s = agentTurn n { s with agenda := rest } := by
  rw [step, nextStep, h]

theorem step_stuck (h : s.agenda = []) (hf : s.memFault = true) : step s = .fault .memFault := by
  rw [step, nextStep, h]
  exact if_pos hf

/-! ### The core's turn -/

theorem enabledStep_of_fault (hf : s.memFault = true) : enabledStep s = none := if_pos hf

theorem enabledStep_idle (hp : s.phase = .idle) : enabledStep s = none := by
  simp [enabledStep, hp]

theorem coreTurn_none (h : enabledStep s = none) : coreTurn s = .next s := by
  rw [coreTurn, h]

theorem coreTurn_some {i : Instr} (h : enabledStep s = some i) : coreTurn s = exec i s := by
  rw [coreTurn, h]

theorem coreTurn_next (h : coreTurn s = .next t) :
    (enabledStep s = none ∧ t = s) ∨ ∃ i, enabledStep s = some i ∧ exec i s = .next t := by
  cases he : enabledStep s with
  | none =>
    rw [coreTurn_none he] at h
    cases h
    exact .inl ⟨rfl, rfl⟩
  | some i => exact .inr ⟨i, rfl, by rwa [coreTurn_some he] at h⟩

/-- The step that phase and tier enable (R30), while no MemFault is recorded. -/
theorem coreTurn_runs (hf : s.memFault = false) :
    (s.phase = .idle → coreTurn s = .next s) ∧
    (s.phase = .init → coreTurn s = exec .runTier s) ∧
    (s.phase = .block → s.tier = .na → coreTurn s = exec .naBlock s) ∧
    (s.phase = .block → s.tier = .uo → coreTurn s = exec .uoBlock s) ∧
    (s.phase = .final → s.tier = .na → coreTurn s = exec .naFinal s) ∧
    (s.phase = .final → s.tier = .uo → coreTurn s = exec .uoFinal s) := by
  refine ⟨fun hp => coreTurn_none (enabledStep_idle hp), fun hp => coreTurn_some ?_, fun hp ht => coreTurn_some ?_,
    fun hp ht => coreTurn_some ?_, fun hp ht => coreTurn_some ?_, fun hp ht => coreTurn_some ?_⟩
  all_goals simp [enabledStep, *]

/-! ### The host's port -/

/-- A host write of an operand register that takes the value (R27). -/
inductive OperandWrite (v : U64) : CReg → State → State → Prop
  | base (s : State) : OperandWrite v .cr0 s (beginUse { s with base := v, baseWritten := true })
  | offset (s : State) : OperandWrite v .cr1 s (beginUse { s with offset := v, offsetWritten := true })
  | length (s : State) : OperandWrite v .cr2 s (beginUse { s with length := v, lengthWritten := true })

theorem startIgnored_eq_true : startIgnored s = true ↔ s.phase ≠ .idle ∨ s.memFault = true := by
  simp [startIgnored]

theorem startIgnored_eq_false : startIgnored s = false ↔ s.phase = .idle ∧ s.memFault = false := by
  simp [startIgnored]

theorem useCommand_of_ignored (h : startIgnored s = true) : useCommand s = s := by
  rw [useCommand, if_pos h]

theorem startAccept_of_ignored (h : startIgnored s = true) : startAccept s = .next s := if_pos h

theorem execHash64_of_ignored (h : startIgnored s = true) : execHash64 s = .next s := if_pos h

theorem hostWrite_next {r : CReg} {v : U64} (h : hostWrite r v s = .next t) :
    t = s ∨ (s.busy = false ∧ OperandWrite v r s t) ∨
      (r = .cr3 ∧ v.getLsbD 0 = true ∧ startIgnored s = false ∧ launchRefusal (useCommand s) = none ∧
        t = accept (latch (useCommand s))) := by
  cases r with
  | cr0 | cr1 | cr2 =>
    simp only [hostWrite] at h
    split at h
    · cases h
      exact .inl rfl
    · cases h
      exact .inr (.inl ⟨Bool.eq_false_of_not_eq_true ‹_›, by constructor⟩)
  | cr3 =>
    simp only [hostWrite] at h
    split at h
    · cases hi : startIgnored s with
      | true =>
        rw [useCommand_of_ignored hi] at h
        cases h.symm.trans (startAccept_of_ignored hi)
        exact .inl rfl
      | false =>
        obtain ⟨hx, -⟩ | ⟨-, -, hn, rfl⟩ := startAccept_next h
        · exact absurd (hi.symm.trans hx) Bool.noConfusion
        · exact .inr (.inr ⟨rfl, ‹_›, rfl, hn, rfl⟩)
    · cases h
      exact .inl rfl
  | cr4 =>
    cases h
    exact .inl rfl

/-- A store that changes a byte of the window of a running command (R60, R222). -/
def storeRefused (s : State) (a : Addr) (b : Byte) : Bool :=
  s.busy && inWindow s a && decide (memLookup s.mem a.toNat ≠ some b)

theorem hostStore_eq (a : Addr) (b : Byte) (s : State) : hostStore a b s =
    if storeRefused s a b = true then .refused .windowChanged
    else .next { s with mem := memStore s.mem a.toNat b } := rfl

theorem hostStore_next {a : Addr} {b : Byte} (h : hostStore a b s = .next t) :
    t = { s with mem := memStore s.mem a.toNat b } := by
  rw [hostStore_eq] at h
  split at h
  · cases h
  · cases h
    rfl

theorem hostWait_next (h : hostWait rest s = .next t) :
    (s.done = true ∧ t = { s with agenda := rest }) ∨ (s.done = false ∧ s.memFault = false ∧ coreTurn s = .next t) := by
  unfold hostWait at h
  split_ifs at h with hd hf
  · cases h
    exact .inl ⟨hd, rfl⟩
  · exact .inr ⟨Bool.eq_false_of_not_eq_true hd, Bool.eq_false_of_not_eq_true hf, h⟩

/-! ### The cases of a step -/

/-- What a step of the machine can do. The events of the agenda that matter to what it did are named. -/
inductive Stepped (s : State) : State → Prop
  | quiet (l : List Event) : Stepped s { s with agenda := l }
  | core {i : Instr} {t : State} (l : List Event) (enabled : enabledStep s = some i)
      (run : exec i { s with agenda := l } = .next t) : Stepped s t
  | label {i : Instr} {t : State} {bytes : List Byte} {rest : List Event} (head : s.agenda = .label bytes :: rest)
      (run : exec i { s with agenda := rest } = .next t) : Stepped s t
  | operand {r : CReg} {v : U64} {t : State} {rest : List Event} (head : s.agenda = .host (.write r v) :: rest)
      (notBusy : s.busy = false) (write : OperandWrite v r { s with agenda := rest } t) : Stepped s t
  | start {v : U64} {rest : List Event} (head : s.agenda = .host (.write .cr3 v) :: rest) (bit : v.getLsbD 0 = true)
      (idle : s.phase = .idle) (noFault : s.memFault = false)
      (contract : launchRefusal (useCommand { s with agenda := rest }) = none) :
      Stepped s (accept (latch (useCommand { s with agenda := rest })))
  | read {r : CReg} {v : U64} {rest : List Event} (head : s.agenda = .host (.read r) :: rest)
      (value : regValue r s = some v) :
      Stepped s
        (if r = .cr4 then endUse (observe r v { s with agenda := rest }) else observe r v { s with agenda := rest })
  | store {a : Addr} {b : Byte} {rest : List Event} (head : s.agenda = .host (.store a b) :: rest) :
      Stepped s { s with agenda := rest, mem := memStore s.mem a.toNat b }
  | reset {rest : List Event} (head : s.agenda = .host .reset :: rest) : Stepped s (resetCore { s with agenda := rest })
  | agent {n : Nat} {rest : List Event} (head : s.agenda = .agent n :: rest) (agreed : n = s.agent ∨ s.use = .free) :
      Stepped s { s with agenda := rest, agent := n }

theorem stepped_of_coreTurn {l : List Event} (h : coreTurn { s with agenda := l } = .next t) : Stepped s t := by
  obtain ⟨-, rfl⟩ | ⟨i, hi, hrun⟩ := coreTurn_next h
  · exact .quiet l
  · exact .core l hi hrun

theorem stepped_of_host {a : HostAction} (head : s.agenda = .host a :: rest) (h : hostAct a rest s = .next t) :
    Stepped s t := by
  cases a with
  | write r v =>
    obtain rfl | ⟨hb, hw⟩ | ⟨rfl, hv, hi, hn, rfl⟩ := hostWrite_next h
    · exact .quiet rest
    · exact .operand head hb hw
    · obtain ⟨hp, hf⟩ := startIgnored_eq_false.mp hi
      exact .start head hv hp hf hn
  | read r =>
    obtain ⟨v, hv, rfl⟩ := hostRead_next h
    exact .read head hv
  | wait =>
    obtain ⟨-, rfl⟩ | ⟨-, -, hrun⟩ := hostWait_next h
    · exact .quiet rest
    · exact stepped_of_coreTurn (l := s.agenda) hrun
  | store a b =>
    obtain rfl := hostStore_next h
    exact .store head
  | reset =>
    cases h
    exact .reset head

/-- Every step that answers with a next state is one of these cases. -/
theorem step_stepped (h : step s = .next t) : Stepped s t := by
  match hl : s.agenda with
  | [] =>
    cases hf : s.memFault with
    | true => cases h.symm.trans (step_stuck hl hf)
    | false => exact stepped_of_coreTurn (l := s.agenda) ((step_quiet hl hf).symm.trans h)
  | .core :: rest => exact stepped_of_coreTurn ((step_core hl).symm.trans h)
  | .host a :: rest => exact stepped_of_host hl ((step_host hl).symm.trans h)
  | .label bytes :: rest =>
    rw [step_label hl, runLabel] at h
    split at h
    · exact .label hl h
    · cases h
  | .agent n :: rest =>
    obtain ⟨hn, rfl⟩ := agentTurn_next ((step_agent hl).symm.trans h)
    exact .agent hl hn

/-! ### The invariant -/

/-- Settles O6: after reset the core is idle, and what the invariant says of a running command is void. -/
theorem resetMeetsTheInvariant : Obligations.ResetMeetsTheInvariant := by
  constructor <;> simp [State.reset, Memory.wf, memWfFrom]

theorem MachineInv.useCommand (h : MachineInv s) : MachineInv (useCommand s) := h.agentUse s.agent _

theorem MachineInv.endUse (h : MachineInv s) : MachineInv (endUse s) := h.agentUse s.agent _

theorem MachineInv.resetCore (h : MachineInv s) : MachineInv (resetCore s) := by
  constructor <;> simp [h.memCanonical]

theorem MachineInv.store (h : MachineInv s) (a : Addr) (b : Byte) :
    MachineInv { s with mem := memStore s.mem a.toNat b } :=
  ⟨memStore_wf h.1 a b, h.2, h.3, h.4, h.5, h.6, h.7, h.8, h.9, h.10⟩

/-- The operand registers are no part of the invariant: a running command works on its latches. -/
theorem OperandWrite.machineInv {v : U64} {r : CReg} (hw : OperandWrite v r s t) (h : MachineInv s) : MachineInv t := by
  cases hw <;> exact ⟨h.1, h.2, h.3, h.4, h.5, h.6, h.7, h.8, h.9, h.10⟩

/-- Settles O7: of the cases of a step, the operations keep the invariant by their updates, and the host's actions leave
what it speaks of alone, but for a store, which keeps the memory canonical, and reset. -/
theorem stepKeepsTheInvariant : Obligations.StepKeepsTheInvariant := by
  intro s t inv h
  cases step_stepped h with
  | quiet l => exact inv.agenda l
  | core l _ run => exact exec_machineInv _ (inv.agenda l) run
  | label _ run => exact exec_machineInv _ (inv.agenda _) run
  | operand _ _ write => exact write.machineInv (inv.agenda _)
  | start _ _ _ noFault contract => exact (inv.agenda _).useCommand.accept noFault contract
  | read _ _ =>
    split
    · exact ((inv.agenda _).observe _ _).endUse
    · exact (inv.agenda _).observe _ _
  | @store a b rest _ => exact (inv.agenda rest).store a b
  | reset _ => exact (inv.agenda _).resetCore
  | @agent n rest _ _ => exact (inv.agenda rest).agentUse n s.use

end Sys2Proof.Machine
end

section
/-! PROOF. The label port, the core's turn and the host's port (spec/10_state.md R27 to R30, spec/30_encoding.md R89,
spec/70_reset_and_hazards.md R260). -/

namespace Sys2Proof.Machine

variable {s t : State} {rest : List Event}

/-! ### Which step comes next -/

/-- Settles O4: the label port decodes the word, then runs the operation. -/
theorem stepRunsTheDecodedLabel : Obligations.StepRunsTheDecodedLabel := by
  intro s bytes after rest i head hdecode
  rw [step_label head, runLabel, hdecode]

/-- Settles O5: with nothing pending and at a core event the step is the core's turn, on a state of the same phase, tier
and fault. -/
theorem coreTurnRunsTheEnabledStep : Obligations.CoreTurnRunsTheEnabledStep := by
  intro s u hturn hf
  obtain ⟨head, rfl⟩ | ⟨rest, head, rfl⟩ := hturn
  · rw [step_quiet head hf]
    exact coreTurn_runs hf
  · rw [step_core head]
    exact coreTurn_runs (s := { s with agenda := rest }) hf

/-- Settles O57: a `wait` without `DONE` is the core's turn. -/
theorem waitRunsTheCoreUntilDone : Obligations.WaitRunsTheCoreUntilDone := by
  intro s rest head hf
  have waiting (hd : s.done = false) : step s = coreTurn s := by
    rw [step_host head]
    simp [hostAct, hostWait, hd, hf]
  obtain ⟨-, init, blockNa, blockUo, finalNa, finalUo⟩ := coreTurn_runs hf
  refine ⟨fun hd => ?_, fun hd => ?_, fun hd => ?_, fun hd => ?_, fun hd => ?_, fun hd => ?_⟩
  · rw [step_host head]
    exact if_pos hd
  all_goals
    rw [waiting hd]
    assumption

/-! ### Host writes and reads -/

theorem useCommand_eq (s : State) :
    useCommand s = { s with use := if s.phase = .idle ∧ s.memFault = false then .command else s.use } := by
  cases hi : startIgnored s with
  | true => rw [useCommand_of_ignored hi, if_neg fun hc => by cases hi.symm.trans (startIgnored_eq_false.mpr hc)]
  | false => rw [if_pos (startIgnored_eq_false.mp hi), useCommand, hi]; rfl

/-- Settles O55: the write of each register, unfolded. -/
theorem hostWritesOperandsOnlyWhileNotBusy : Obligations.HostWritesOperandsOnlyWhileNotBusy := by
  intro s v rest u
  refine ⟨fun head => ?_, fun head => ?_, fun head => ?_, fun head => ?_, fun head => ?_⟩
  case refine_4 =>
    rw [step_host head]
    show (if v.getLsbD 0 then exec .startAccept (useCommand u) else .next u) = _
    rw [useCommand_eq]
  all_goals
    rw [step_host head]
    rfl

/-- `CTRL` as the host reads it (R28). -/
theorem readCtrl_setWidth (s : State) :
    (readCtrl s).setWidth 64 = (if s.done then 4 else 0) + (if s.busy then 2 else 0) := by
  rw [readCtrl]
  cases s.done <;> cases s.busy <;> decide

/-- The step at a read of a register that holds a value. -/
theorem step_read {r : CReg} {v : U64} (head : s.agenda = .host (.read r) :: rest) (h : regValue r s = some v) :
    step s = .next
      (if r = .cr4 then endUse (observe r v { s with agenda := rest }) else observe r v { s with agenda := rest }) := by
  have h' : regValue r { s with agenda := rest } = some v := h
  rw [step_host head, hostAct, hostRead, h']

/-- Settles O56: each register holds a value to read, but for the digest while `DONE=0`. -/
theorem hostReadsWhatTheRegistersHold : Obligations.HostReadsWhatTheRegistersHold := by
  intro s rest seen
  refine ⟨fun head => ?_, fun head => ?_, fun head => ?_, fun head => ?_, fun head hd => ?_, fun head hd => ?_⟩
  · exact step_read head rfl
  · exact step_read head rfl
  · exact step_read head rfl
  · exact step_read head (congrArg some (readCtrl_setWidth s))
  · exact step_read head (if_pos hd)
  · have none : regValue .cr4 { s with agenda := rest } = none := if_neg (by simp [hd])
    rw [step_host head, hostAct, hostRead, none]

/-! ### Reset -/

/-- Settles O8: a host's reset is `resetCore`, read off field by field. -/
theorem resetLeavesIdleWithFlagsClear : Obligations.ResetLeavesIdleWithFlagsClear := by
  refine ⟨⟨rfl, rfl, rfl⟩, fun s rest head => ⟨resetCore { s with agenda := rest }, step_host head, ?_⟩⟩
  simp [readCtrl]

/-! ### Stores and the frame of memory -/

theorem storeRefused_eq_true {a : Addr} {b : Byte} : storeRefused s a b = true ↔
    s.busy = true ∧ (a - s.startAddr).toNat < s.len.toNat ∧ memLookup s.mem a.toNat ≠ some b := by
  simp [storeRefused, inWindow, and_assoc]

/-- Settles O10: the guard of the store is the statement's, and the store itself is read back by the memory laws. -/
theorem hostStoreWritesOneByte : Obligations.HostStoreWritesOneByte := by
  intro s a b rest hwf head
  have store : step s = if storeRefused s a b = true then .refused .windowChanged
      else .next { s with agenda := rest, mem := memStore s.mem a.toNat b } := step_host head
  simp only [← storeRefused_eq_true]
  split
  · rw [store, if_pos ‹_›]
  · exact ⟨_, store.trans (if_neg ‹_›), memStore_wf hwf a b, fun c => memLookup_memStore hwf a.toNat c b⟩

/-- A step writes memory only by a host store, and the list of what the host has read only by a host read. -/
theorem Stepped.host_side (h : Stepped s t) :
    ((∀ a b rest, s.agenda ≠ .host (.store a b) :: rest) → t.mem = s.mem) ∧
    ((∀ r rest, s.agenda ≠ .host (.read r) :: rest) → t.observed = s.observed) := by
  cases h with
  | quiet l => exact ⟨fun _ => rfl, fun _ => rfl⟩
  | core l _ run => exact ⟨fun _ => (exec_host_side _ run).1, fun _ => (exec_host_side _ run).2⟩
  | label _ run => exact ⟨fun _ => (exec_host_side _ run).1, fun _ => (exec_host_side _ run).2⟩
  | operand _ _ write => cases write <;> exact ⟨fun _ => rfl, fun _ => rfl⟩
  | start _ _ _ _ _ => exact ⟨fun _ => rfl, fun _ => rfl⟩
  | read head _ => exact ⟨fun _ => by split <;> rfl, fun hread => absurd head (hread _ _)⟩
  | store head => exact ⟨fun hstore => absurd head (hstore _ _ _), fun _ => rfl⟩
  | reset _ => exact ⟨fun _ => rfl, fun _ => rfl⟩
  | agent _ _ => exact ⟨fun _ => rfl, fun _ => rfl⟩

/-- Settles O9: the first two clauses are the cases of a step, the last one those of `regValue`. -/
theorem coreNeverWritesMemory : Obligations.CoreNeverWritesMemory := by
  refine ⟨fun s t h => (step_stepped h).host_side.1, fun s t h => (step_stepped h).host_side.2, fun s r d hr => ?_⟩
  cases r with
  | cr4 => exact absurd rfl hr
  | _ => rfl

/-! ### A START outside `IDLE` or after a MemFault -/

/-- Settles O34: the step, the command and the write of `CR3` each test whether the START is ignored. -/
theorem startIsIgnoredWhileBusy : Obligations.StartIsIgnoredWhileBusy := by
  intro s h
  have ignored : startIgnored s = true := startIgnored_eq_true.mpr h
  refine ⟨startAccept_of_ignored ignored, execHash64_of_ignored ignored, fun v rest head => ?_⟩
  have ignored' : startIgnored { s with agenda := rest } = true := ignored
  rw [step_host head]
  show (if v.getLsbD 0 then exec .startAccept (useCommand { s with agenda := rest }) else _) = _
  rw [useCommand_of_ignored ignored']
  split
  · exact startAccept_of_ignored ignored'
  · rfl

/-! ### The recorded MemFault -/

/-- The interface registers, the flags, the latches and the working registers are as before. -/
structure SameCore (s t : State) : Prop where
  memFault : t.memFault = s.memFault
  busy : t.busy = s.busy
  done : t.done = s.done
  digest : t.digest = s.digest
  base : t.base = s.base
  offset : t.offset = s.offset
  length : t.length = s.length
  work : t.work = s.work
  phase : t.phase = s.phase
  pos : t.pos = s.pos
  endOff : t.endOff = s.endOff
  startAddr : t.startAddr = s.startAddr
  len : t.len = s.len
  tier : t.tier = s.tier

/-- After a MemFault an operation is refused, ignored or a stage that leaves its result. -/
theorem exec_of_fault (i : Instr) (hf : s.memFault = true) (h : exec i s = .next t) :
    t = s ∨ ∃ r, t = setStage r s := by
  have ignored : startIgnored s = true := startIgnored_eq_true.mpr (.inr hf)
  cases i with
  | hash64 => exact .inl (Host.Outcome.next.inj (h.symm.trans (execHash64_of_ignored ignored)))
  | startAccept => exact .inl (Host.Outcome.next.inj (h.symm.trans (startAccept_of_ignored ignored)))
  | hl0to16 | hl17to32 | hl33to64 | hl65to96 | hl0 | hl1to3 | hl4to7 | hl8to16 =>
    obtain ⟨-, hf', -⟩ := selectedRoutine_next h
    exact absurd hf (by simp [hf'])
  | fetch8 | fetch32 | fetch64 | h32 | weak32s =>
    obtain ⟨-, hf', -⟩ := fetchingStage_next h
    exact absurd hf (by simp [hf'])
  | h64na | h64uo | runTier | naInit | naBlock | naFinal | uoInit | uoBlock | uoFinal =>
    obtain ⟨-, hf', -⟩ := sequencerStep_next h
    exact absurd hf (by simp [hf'])
  | rotr64 v r => exact .inr ⟨_, (execRotr64_next h).2⟩
  | shiftmix | hashlen16 | weak32 | huo => exact .inr ⟨_, (Host.Outcome.next.inj h).symm⟩

/-- A MemFault freezes the core until reset. -/
theorem Stepped.sameCore_of_fault (h : Stepped s t) (hf : s.memFault = true) (hb : s.busy = true)
    (hreset : ∀ rest, s.agenda ≠ .host .reset :: rest) : SameCore s t := by
  cases h with
  | quiet l => constructor <;> rfl
  | core l enabled _ => cases (enabledStep_of_fault hf).symm.trans enabled
  | @label i t bytes rest head run =>
    obtain rfl | ⟨r, rfl⟩ := exec_of_fault (s := { s with agenda := rest }) i hf run <;> constructor <;> rfl
  | operand _ notBusy _ => exact absurd hb (by simp [notBusy])
  | start _ _ _ noFault _ => exact absurd hf (by simp [noFault])
  | read _ _ => split <;> constructor <;> rfl
  | store _ => constructor <;> rfl
  | reset head => exact absurd head (hreset _)
  | agent _ _ => constructor <;> rfl

theorem MachineInv.busy_of_fault (inv : MachineInv s) (hf : s.memFault = true) : s.busy = true ∧ s.done = false := by
  have hb : s.busy = true := inv.busyIsRunning.mpr (inv.faultHoldsCommand hf)
  exact ⟨hb, Bool.eq_false_of_not_eq_true fun hd => inv.notBusyAndDone ⟨hb, hd⟩⟩

/-- Settles O54: the cases of a step that a MemFault leaves change nothing of the core. -/
theorem memFaultHoldsUntilReset : Obligations.MemFaultHoldsUntilReset := by
  intro s inv hf
  obtain ⟨hb, hd⟩ := inv.busy_of_fault hf
  refine ⟨fun t h hreset => ?_, fun head => step_stuck head hf, fun rest head => ?_⟩
  · have same := (step_stepped h).sameCore_of_fault hf hb hreset
    exact ⟨same.memFault.trans hf, same.busy.trans hb, same.done.trans hd, same.digest, same.base, same.offset,
      same.length, same.work, same.phase, same.pos, same.endOff, same.startAddr, same.len, same.tier⟩
  · rw [step_host head]
    simp [hostAct, hostWait, hd, hf]

/-! ### The digest between commands -/

theorem MachineInv.idle_of_done (inv : MachineInv s) (hd : s.done = true) : s.phase = .idle := by
  by_contra hp
  exact inv.notBusyAndDone ⟨inv.busyIsRunning.mpr hp, hd⟩

/-- Settles O58: a completed command leaves the core idle, where it has no step of its own, and of the host's actions
only START and reset write `DONE` or the digest. -/
theorem digestStaysUntilTheNextStart : Obligations.DigestStaysUntilTheNextStart := by
  intro s t inv hd h hreset hlabel
  cases step_stepped h with
  | quiet l => exact .inl ⟨hd, rfl⟩
  | core l enabled _ => cases (enabledStep_idle (inv.idle_of_done hd)).symm.trans enabled
  | label head _ => exact absurd head (hlabel _ _)
  | operand _ _ write => cases write <;> exact .inl ⟨hd, rfl⟩
  | start head bit _ _ _ => exact .inr ⟨_, _, head, bit, rfl, rfl⟩
  | read _ _ => split <;> exact .inl ⟨hd, rfl⟩
  | store _ => exact .inl ⟨hd, rfl⟩
  | reset head => exact absurd head (hreset _)
  | agent _ _ => exact .inl ⟨hd, rfl⟩

/-! ### Agents -/

/-- How whose turn it is and how far its use has come may change in a step (R260). -/
def UseRules (s t : State) : Prop :=
  (t.agent ≠ s.agent → s.use = .free ∧ t.use = .free ∧ ∃ rest, s.agenda = .agent t.agent :: rest) ∧
  (s.use ≠ .operands → t.use = .operands → s.busy = false ∧
    ∃ r v rest, (r = .cr0 ∨ r = .cr1 ∨ r = .cr2) ∧ s.agenda = .host (.write r v) :: rest) ∧
  (s.use ≠ .command → t.use = .command → s.phase = .idle ∧ t.phase = .init ∧
    ∃ v rest, v.getLsbD 0 = true ∧ s.agenda = .host (.write .cr3 v) :: rest) ∧
  (s.use ≠ .free → t.use = .free →
    (∃ rest, s.agenda = .host .reset :: rest) ∨
    (s.use = .command ∧ s.done = true ∧ ∃ rest, s.agenda = .host (.read .cr4) :: rest))

theorem useRules_of_sameUser (h : SameUser s t) : UseRules s t := by
  obtain ⟨hagent, huse⟩ := h
  exact ⟨fun ha => absurd hagent ha, fun hs ht => absurd (huse.symm.trans ht) hs,
    fun hs ht => absurd (huse.symm.trans ht) hs, fun hs ht => absurd (huse.symm.trans ht) hs⟩

/-- What an operand write does to the agents' side: the use comes to the writing of operands. -/
theorem OperandWrite.use {v : U64} {r : CReg} (h : OperandWrite v r s t) :
    t.agent = s.agent ∧ t.use = .operands ∧ (r = .cr0 ∨ r = .cr1 ∨ r = .cr2) := by
  cases h <;> simp

theorem Stepped.useRules (h : Stepped s t) : UseRules s t := by
  cases h with
  | quiet l => exact useRules_of_sameUser ⟨rfl, rfl⟩
  | core l _ run =>
    obtain ⟨hagent, huse⟩ := exec_sameUser _ run
    exact useRules_of_sameUser ⟨hagent, huse⟩
  | label _ run =>
    obtain ⟨hagent, huse⟩ := exec_sameUser _ run
    exact useRules_of_sameUser ⟨hagent, huse⟩
  | operand head notBusy write =>
    obtain ⟨hagent, huse, hr⟩ := write.use
    refine ⟨fun ha => absurd hagent ha, fun _ _ => ⟨notBusy, _, _, _, hr, head⟩, fun _ ht => ?_, fun _ ht => ?_⟩
    · cases huse.symm.trans ht
    · cases huse.symm.trans ht
  | @start v rest head bit idle noFault _ =>
    have huse : (accept (latch (useCommand { s with agenda := rest }))).use = .command := by
      simp [startIgnored, idle, noFault]
    refine ⟨fun ha => absurd rfl ha, fun _ ht => ?_, fun _ _ => ⟨idle, rfl, v, rest, bit, head⟩, fun _ ht => ?_⟩
    · cases huse.symm.trans ht
    · cases huse.symm.trans ht
  | @read r v rest head value =>
    split
    · subst r
      have hd : s.done = true := by
        by_contra hd
        simp [regValue, hd] at value
      have huse : (endUse (observe .cr4 v { s with agenda := rest })).use =
          if s.use = .command then .free else s.use := rfl
      by_cases hc : s.use = .command
      · rw [if_pos hc] at huse
        refine ⟨fun ha => absurd rfl ha, fun _ ht => ?_, fun _ ht => ?_, fun _ _ => .inr ⟨hc, hd, rest, head⟩⟩
        · cases huse.symm.trans ht
        · cases huse.symm.trans ht
      · exact useRules_of_sameUser ⟨rfl, huse.trans (if_neg hc)⟩
    · exact useRules_of_sameUser ⟨rfl, rfl⟩
  | store _ => exact useRules_of_sameUser ⟨rfl, rfl⟩
  | reset head =>
    exact ⟨fun ha => absurd rfl ha, fun _ ht => (by cases ht), fun _ ht => (by cases ht), fun _ _ => .inl ⟨_, head⟩⟩
  | @agent n rest head agreed =>
    refine ⟨fun ha => ?_, fun hs ht => absurd ht hs, fun hs ht => absurd ht hs, fun hs ht => absurd ht hs⟩
    have free : s.use = .free := agreed.resolve_left ha
    exact ⟨free, free, rest, head⟩

/-- Settles O59: the first clauses are the guard of a change of turn, the others the cases of a step. -/
theorem oneAgentUsesTheInstanceAtATime : Obligations.OneAgentUsesTheInstanceAtATime := by
  refine fun s => ⟨fun n rest head => ⟨fun hn huse => ?_, fun agreed => ?_⟩, fun t h => (step_stepped h).useRules⟩
  · rw [step_agent head]
    exact if_pos ⟨hn, huse⟩
  · rw [step_agent head]
    refine if_neg fun ⟨hn, huse⟩ => ?_
    exact agreed.elim hn huse

end Sys2Proof.Machine
end

section
/-! PROOF. The primitive stages (spec/41_primitive_stages.md, R160, R180, R181, R200): what each leaves under its own
label, and when a fetching stage is refused or traps. -/

namespace Sys2Proof.Machine

variable {s : State} {B : List Byte} {α : Type}

/-! ### A fetching stage under its own label -/

theorem fetchingStage_closed {i : Len} {size : Nat} (r : Except Addr State) (h : s.phase = .idle ∨ s.memFault = true) :
    fetchingStage s i size r = .refused .notEnabled := by
  have closed : windowOpen s = false := by
    obtain hp | hf := h
    · simp [windowOpen, hp]
    · simp [windowOpen, hf]
  simp [fetchingStage, closed]

theorem fetchingStage_outside {i : Len} {size : Nat} (r : Except Addr State) (hp : s.phase ≠ .idle)
    (hf : s.memFault = false) (hi : s.len.toNat < i.toNat + size) :
    fetchingStage s i size r = .refused .offsetOutsideWindow := by
  simp [fetchingStage, windowOpen, offsetInWindow, hp, hf, hi]

/-- A fetching stage whose read is refused only records the MemFault (R221). -/
theorem fetchingStage_refused {i : Len} {size : Nat} {r : Except Addr α} (f : α → State) (hp : s.phase ≠ .idle)
    (hf : s.memFault = false) (hi : i.toNat + size ≤ s.len.toNat) (hr : ∃ e, r = .error e) :
    fetchingStage s i size (r.map f) = .next { s with memFault := true } := by
  rw [fetchingStage_enabled _ hp hf hi, commit_refused (map_refused f hr)]

/-- A fetching stage inside a held window leaves its result. -/
theorem fetchingStage_of_running (h : Running s B) {i : Len} {size : Nat} {r : Except Addr α} {v : α} (f : α → State)
    (hi : i.toNat + size ≤ B.length) (hr : r = .ok v) : fetchingStage s i size (r.map f) = .next (f v) := by
  rw [fetchingStage_enabled _ h.running h.noFault (by rw [h.size]; exact hi), hr]
  rfl

/-- Settles O12: each read of the held window is the word at the offset, whose value is the sum of R53. -/
theorem fetchStagesReadTheWindow : Obligations.FetchStagesReadTheWindow := by
  intro s B i h
  refine ⟨fun hi => ?_, fun hi => ?_, fun hi => ?_⟩
  · rw [← wordOf_eq_ofNat_leSum hi]
    exact fetchingStage_of_running h _ hi (fetch8_of_holds h.holds i hi)
  · rw [← wordOf_eq_ofNat_leSum hi]
    exact fetchingStage_of_running h _ hi (fetch32_of_holds h.holds i hi)
  · rw [← wordOf_eq_ofNat_leSum hi]
    exact fetchingStage_of_running h _ hi (fetch64_of_holds h.holds i hi)

/-- Settles O13: the refused byte refuses the read, and the stage with it. -/
theorem fetchingStagesTrapOnARefusedByte : Obligations.FetchingStagesTrapOnARefusedByte := by
  intro s i hp hf
  refine ⟨fun hi hx => ?_, fun hi hx => ?_, fun hi hx => ?_, fun hi hx mul seed0 seed1 => ?_, fun hi hx a b => ?_⟩
  · exact fetchingStage_refused _ hp hf hi (memRead_refused hx)
  · exact fetchingStage_refused _ hp hf hi (memRead_refused hx)
  · exact fetchingStage_refused _ hp hf hi (memRead_refused hx)
  · exact fetchingStage_refused _ hp hf hi (map_refused _ (fetchQuad_refused hx))
  · exact fetchingStage_refused _ hp hf hi (map_refused _ (fetchQuad_refused hx))

/-- Settles O14: all five fetching stages have the guard of `fetchingStage`. -/
theorem fetchingStagesKeepToTheWindow : Obligations.FetchingStagesKeepToTheWindow := by
  intro s i
  refine ⟨fun h => ?_, fun hp hf => ?_⟩
  · exact ⟨fetchingStage_closed _ h, fetchingStage_closed _ h, fetchingStage_closed _ h,
      fun _ _ _ => fetchingStage_closed _ h, fun _ _ => fetchingStage_closed _ h⟩
  · exact ⟨fetchingStage_outside _ hp hf, fetchingStage_outside _ hp hf, fetchingStage_outside _ hp hf,
      fun hi => ⟨fun _ _ _ => fetchingStage_outside _ hp hf hi, fun _ _ => fetchingStage_outside _ hp hf hi⟩⟩

/-! ### The arithmetic stages -/

/-- Bit `k` of a rotate to the right is bit `(k + r) mod 64` (R123). -/
theorem rotr_getLsbD (v : U64) {r k : Nat} (hr : r < 64) (hk : k < 64) :
    (rotr v r).getLsbD k = v.getLsbD ((k + r) % 64) := by
  rw [rotr_eq_rotateRight v hr, BitVec.getLsbD_rotateRight, Nat.mod_eq_of_lt hr]
  by_cases h : k < 64 - r
  · rw [decide_eq_true h, cond_true, Nat.mod_eq_of_lt (by omega), Nat.add_comm]
  · rw [decide_eq_false h, cond_false, decide_eq_true hk, Bool.true_and, show (k + r) % 64 = k - (64 - r) by omega]

/-- Settles O15, bit by bit. -/
theorem rotr64MovesEachBitRight : Obligations.Rotr64MovesEachBitRight := by
  intro s v r
  refine ⟨fun hr => ⟨rotr v r.toNat, if_pos hr, fun k hk => rotr_getLsbD v hr hk⟩, fun hr => if_neg ?_⟩
  omega

/-- Settles O16, bit by bit. -/
theorem shiftmixXorsBit47Up : Obligations.ShiftmixXorsBit47Up := by
  refine fun s v => ⟨shiftMix v, rfl, fun k _ => ?_⟩
  rw [shiftMix, BitVec.getLsbD_xor, BitVec.getLsbD_ushiftRight, Nat.add_comm]

/-- Equal words make the first round of the mixer vanish. -/
theorem hashLen16_self (v mul : U64) : hashLen16 v v mul = ((v * mul) ^^^ ((v * mul) >>> 47)) * mul := by
  simp [hashLen16]

/-- Settles O17: the model's body is the equivalent form, and `hashLen16_self` the corner. -/
theorem hashlen16IsTheTwoRoundMixer : Obligations.Hashlen16IsTheTwoRoundMixer := by
  refine fun s u v mul => ⟨rfl, ?_⟩
  rw [← hashLen16_self]
  rfl

theorem weakQuad_eq (q : Quad) (a b : U64) :
    weakQuad q a b = (specWeak1 q.w0 q.w1 q.w2 q.w3 a, specWeak2 q.w0 q.w1 q.w2 q.w3 a b) := weakPair_eq ..

/-- Settles O18: the pair without its intermediate assignments. -/
theorem weak32IsTheSumAndTheRotates : Obligations.Weak32IsTheSumAndTheRotates := by
  intro s w x y z a b
  show Host.Outcome.next (setStage (.pair (weakPair w x y z a b).1 (weakPair w x y z a b).2) s) = _
  rw [weakPair_eq]
  rfl

/-- Settles O19: the window is read as its four words. -/
theorem weak32sIsTheWeakPairOfItsWindow : Obligations.Weak32sIsTheWeakPairOfItsWindow := by
  intro s B o a b h ho w x y z
  have read : weakAt s o a b = .ok (specWeak1 w x y z a, specWeak2 w x y z a b) := by
    rw [weakAt, fetchQuad_of_holds h.holds h.length_lt o ho, except_map_ok, weakQuad_eq]
    rfl
  exact fetchingStage_of_running h _ ho read

theorem huoMix_eq (x y mul : U64) {r : Nat} (hr : r < 64) : huoMix x y mul r = specHuo x y mul r := by
  rw [huoMix, rotr_eq_rotateRight _ hr]

/-- Settles O20: both counts are below 64, where the rotate is that of bit vectors. -/
theorem huoIsTheRotatedAvalanche : Obligations.HuoIsTheRotatedAvalanche := by
  intro s x y mul
  rw [← huoMix_eq x y mul (by decide), ← huoMix_eq x y mul (by decide)]
  exact ⟨rfl, rfl⟩

theorem h32Words_eq (q : Quad) (mul seed0 seed1 : U64) :
    h32Words q mul seed0 seed1 = specH32 q.w0 q.w1 q.w2 q.w3 mul seed0 seed1 := by
  simp only [h32Words, rotr_eq_rotateRight, Nat.reduceLT]
  rfl

/-- The window mixer on the words of a byte sequence. -/
theorem h32Words_quadOf (B : List Byte) (o : Nat) (mul seed0 seed1 : U64) :
    h32Words (quadOf B o) mul seed0 seed1 = specH32At B o mul seed0 seed1 := h32Words_eq ..

/-- Settles O21: the window is read as its four words. -/
theorem h32MixesItsWindow : Obligations.H32MixesItsWindow := by
  intro s B o mul seed0 seed1 h ho
  have read : h32At s o mul seed0 seed1 = .ok (specH32At B o.toNat mul seed0 seed1) := by
    rw [h32At, fetchQuad_of_holds h.holds h.length_lt o ho, except_map_ok, h32Words_quadOf]
  exact fetchingStage_of_running h _ ho read

end Sys2Proof.Machine
end

section
/-! PROOF. The routines of tiers 0 to 3 under their own labels (spec/42_short_mixers.md, spec/43_mid_mixers.md): their
values on a held window, the lengths that select them, and the MemFault of a refused window byte. -/

namespace Sys2Proof.Machine

variable {s : State} {B : List Byte}

/-! ### A selected routine under its own label -/

theorem selectedRoutine_closed {lo hi : Nat} (r : Except Addr U64) (h : s.phase = .idle ∨ s.memFault = true) :
    selectedRoutine s lo hi r = .refused .notEnabled := by
  have closed : windowOpen s = false := by
    obtain hp | hf := h
    · simp [windowOpen, hp]
    · simp [windowOpen, hf]
  simp [selectedRoutine, closed]

theorem selectedRoutine_outside {lo hi : Nat} (r : Except Addr U64) (hp : s.phase ≠ .idle) (hf : s.memFault = false)
    (hn : s.len.toNat < lo ∨ hi < s.len.toNat) : selectedRoutine s lo hi r = .refused .lengthNotSelected := by
  have out : lengthIn s lo hi = false := by
    simp only [lengthIn, Bool.and_eq_false_iff, decide_eq_false_iff_not, not_le]
    exact hn
  simp [selectedRoutine, windowOpen, hp, hf, out]

theorem selectedRoutine_of_running (h : Running s B) {lo hi : Nat} {r : Except Addr U64} {v : U64}
    (hlo : lo ≤ B.length) (hhi : B.length ≤ hi) (hr : r = .ok v) :
    selectedRoutine s lo hi r = .next { s with stage := .word v } := by
  rw [selectedRoutine_enabled r h.running h.noFault (by rw [h.size]; exact hlo) (by rw [h.size]; exact hhi), hr]
  rfl

theorem selectedRoutine_refused {lo hi : Nat} {r : Except Addr U64} (hp : s.phase ≠ .idle) (hf : s.memFault = false)
    (hn : lo ≤ s.len.toNat ∧ s.len.toNat ≤ hi) (hr : ∃ e, r = .error e) :
    selectedRoutine s lo hi r = .next { s with memFault := true } := by
  rw [selectedRoutine_enabled r hp hf hn.1 hn.2, commit_refused (map_refused _ hr)]

/-- Settles O31: all eight routines have the guard of `selectedRoutine`. -/
theorem routinesKeepToTheirLengths : Obligations.RoutinesKeepToTheirLengths := by
  intro s row hrow
  have guard (i : Instr) (lo hi : Nat) (r : Except Addr U64) (hi' : exec i s = selectedRoutine s lo hi r) :
      (s.phase = .idle ∨ s.memFault = true → exec i s = .refused .notEnabled) ∧
      (s.phase ≠ .idle → s.memFault = false → s.len.toNat < lo ∨ hi < s.len.toNat →
        exec i s = .refused .lengthNotSelected) := by
    rw [hi']
    exact ⟨selectedRoutine_closed r, selectedRoutine_outside r⟩
  simp only [List.mem_cons, List.not_mem_nil, or_false] at hrow
  obtain rfl | rfl | rfl | rfl | rfl | rfl | rfl | rfl := hrow
  all_goals exact guard _ _ _ _ rfl

/-- Settles O22: `HL0` is selected by length 0 and makes no read. -/
theorem hl0GivesK2 : Obligations.Hl0GivesK2 := by
  intro s hp hf hn
  exact selectedRoutine_enabled (.ok hl0Value) hp hf (Nat.zero_le _) (by simp [hn])

/-! ### The values of the reference function, as the spec's formulas -/

/-- The short tiers' multiplier (R146). -/
theorem lengthMul_eq (n : Len) : lengthMul n = specK2 + 2 * n := by
  rw [lengthMul, BitVec.mul_comm]
  rfl

theorem hl8to16Mix_eq (n : Len) (first b : U64) : hl8to16Mix n first b =
    specHash16 (b.rotateRight 37 * (specK2 + 2 * n) + (first + specK2))
      (((first + specK2).rotateRight 25 + b) * (specK2 + 2 * n)) (specK2 + 2 * n) := by
  simp only [hl8to16Mix, lengthMul_eq, rotr_eq_rotateRight, Nat.reduceLT]
  rfl

theorem hl17to32Mix_eq (n : Len) (first second last beforeLast : U64) :
    hl17to32Mix n first second last beforeLast =
      specHash16
        ((first * specK1 + second).rotateRight 43 + (last * (specK2 + 2 * n)).rotateRight 30 + beforeLast * specK2)
        (first * specK1 + (second + specK2).rotateRight 18 + last * (specK2 + 2 * n)) (specK2 + 2 * n) := by
  simp only [hl17to32Mix, lengthMul_eq, rotr_eq_rotateRight, Nat.reduceLT]
  rfl

theorem hashBytes_one_to_three (lo : 1 ≤ B.length) (hi : B.length ≤ 3) : hashBytes B =
    hl1to3Mix (BitVec.ofNat 64 B.length) (wordOf B 0 1) (wordOf B (B.length / 2) 1) (wordOf B (B.length - 1) 1) := by
  rw [hashBytes, if_neg (by omega), if_pos hi]

theorem hashBytes_four_to_seven (lo : 4 ≤ B.length) (hi : B.length ≤ 7) : hashBytes B =
    hl4to7Mix (BitVec.ofNat 64 B.length) (wordOf B 0 4) (wordOf B (B.length - 4) 4) := by
  rw [hashBytes, if_neg (by omega), if_neg (by omega), if_pos hi]

theorem hashBytes_eight_to_sixteen (lo : 8 ≤ B.length) (hi : B.length ≤ 16) : hashBytes B =
    hl8to16Mix (BitVec.ofNat 64 B.length) (wordOf B 0 8) (wordOf B (B.length - 8) 8) := by
  rw [hashBytes, if_neg (by omega), if_neg (by omega), if_neg (by omega), if_pos hi]

theorem hashBytes_tier1 (lo : 17 ≤ B.length) (hi : B.length ≤ 32) : hashBytes B =
    hl17to32Mix (BitVec.ofNat 64 B.length) (wordOf B 0 8) (wordOf B 8 8) (wordOf B (B.length - 8) 8)
      (wordOf B (B.length - 16) 8) := by
  rw [hashBytes, if_neg (by omega), if_neg (by omega), if_neg (by omega), if_neg (by omega), if_pos hi]

theorem hashBytes_tier2 (lo : 33 ≤ B.length) (hi : B.length ≤ 64) : hashBytes B =
    hl33to64Mix (BitVec.ofNat 64 B.length) (quadOf B 0) (quadOf B (B.length - 32)) := by
  rw [hashBytes, if_neg (by omega), if_neg (by omega), if_neg (by omega), if_neg (by omega), if_neg (by omega),
    if_pos hi]

theorem hashBytes_tier3 (lo : 65 ≤ B.length) (hi : B.length ≤ 96) : hashBytes B =
    hl65to96Mix (BitVec.ofNat 64 B.length) (quadOf B 0) (quadOf B 32) (quadOf B (B.length - 32)) := by
  rw [hashBytes, if_neg (by omega), if_neg (by omega), if_neg (by omega), if_neg (by omega), if_neg (by omega),
    if_neg (by omega), if_pos hi]

/-! ### The routines on a held window -/

/-- Settles O23: the routine leaves the reference value, whose formula this is. -/
theorem hl1to3MixesThreeBytes : Obligations.Hl1to3MixesThreeBytes := by
  intro s B h lo hi y z g
  have value : hashBytes B = (g ^^^ (g >>> 47)) * specK2 := by
    rw [hashBytes_one_to_three lo hi, ← h.len_eq]
    rfl
  exact selectedRoutine_of_running h lo hi (value ▸ hl1to3Value_of_running h lo hi)

/-- Settles O24: the routine leaves the reference value, whose formula this is. -/
theorem hl4to7MixesTwoWords : Obligations.Hl4to7MixesTwoWords := by
  intro s B h lo hi d
  have value : hashBytes B = d := by
    rw [hashBytes_four_to_seven lo hi, ← h.len_eq, hl4to7Mix, lengthMul_eq]
    rfl
  exact selectedRoutine_of_running h lo hi (value ▸ hl4to7Value_of_running h lo hi)

/-- Settles O25: the routine leaves the reference value, whose formula this is. -/
theorem hl8to16MixesTwoWords : Obligations.Hl8to16MixesTwoWords := by
  intro s B h lo hi mul a b d
  have value : hashBytes B = d := by rw [hashBytes_eight_to_sixteen lo hi, ← h.len_eq, hl8to16Mix_eq]
  exact selectedRoutine_of_running h lo hi (value ▸ hl8to16Value_of_running h lo hi)

/-- Settles O26: on both sides of each cut point the routine and the sub-case leave the reference value. -/
theorem hl0to16PicksTheSubCase : Obligations.Hl0to16PicksTheSubCase := by
  intro s B h hi
  have whole : exec .hl0to16 s = .next { s with stage := .word (hashBytes B) } :=
    selectedRoutine_of_running h (Nat.zero_le _) hi (hl0to16Value_of_running h hi)
  refine ⟨whole, ?_⟩
  rw [whole]
  split
  · exact (selectedRoutine_of_running h ‹_› hi (hl8to16Value_of_running h ‹_› hi)).symm
  · split
    · exact (selectedRoutine_of_running h ‹_› (by omega) (hl4to7Value_of_running h ‹_› (by omega))).symm
    · split
      · exact (selectedRoutine_of_running h ‹_› (by omega) (hl1to3Value_of_running h ‹_› (by omega))).symm
      · have empty : hashBytes B = hl0Value := by rw [hashBytes, if_pos (by omega), hl0Value]
        exact (selectedRoutine_of_running h (Nat.zero_le _) (by omega) (by rw [empty])).symm

/-- Settles O27: the routine leaves the reference value, whose formula this is. -/
theorem hl17to32MixesFourWords : Obligations.Hl17to32MixesFourWords := by
  intro s B h lo hi mul a b c d e
  have value : hashBytes B = e := by rw [hashBytes_tier1 lo hi, ← h.len_eq, hl17to32Mix_eq]
  exact selectedRoutine_of_running h lo hi (value ▸ hl17to32Value_of_running h lo hi)

/-- Settles O28: the routine leaves the reference value, with `K2 - 30` computed. -/
theorem hl33to64CombinesTwoWindows : Obligations.Hl33to64CombinesTwoWindows := by
  intro s B h lo hi mul0 mul1 h0 h1
  have k2_sub : k2 - 30 = mul0 := by decide
  have value : hashBytes B = (h1 * mul1 + h0) * mul1 := by
    simp only [hashBytes_tier2 lo hi, ← h.len_eq, hl33to64Mix, k2_sub, h32Words_quadOf, BitVec.mul_comm s.len 2]
    rfl
  exact selectedRoutine_of_running h lo hi (value ▸ hl33to64Value_of_running h lo hi)

/-- Settles O29: the routine leaves the reference value, with `K2 - 114` computed. -/
theorem hl65to96ChainsThreeWindows : Obligations.Hl65to96ChainsThreeWindows := by
  intro s B h lo hi mul0 mul1 h0 h1 h2
  have k2_sub : k2 - 114 = mul0 := by decide
  have value : hashBytes B = (h2 * 9 + (h0 >>> 17) + (h1 >>> 21)) * mul1 := by
    simp only [hashBytes_tier3 lo hi, ← h.len_eq, hl65to96Mix, k2_sub, h32Words_quadOf, BitVec.mul_comm s.len 2]
    rfl
  exact selectedRoutine_of_running h lo hi (value ▸ hl65to96Value_of_running h lo hi)

/-! ### A refused window byte -/

/-- Byte `k` of the window is refused by the memory. -/
def RefusedByte (s : State) (k : Nat) : Prop := memLookup s.mem (s.startAddr + BitVec.ofNat 64 k).toNat = none

theorem refusedByte_of_refusedAt {size : Nat} (h : RefusedAt s 0 size) : ∃ k < size, RefusedByte s k := by
  obtain ⟨k, hk, hx⟩ := h
  exact ⟨k, hk, by rwa [show s.startAddr + 0 = s.startAddr from BitVec.add_zero ..] at hx⟩

theorem RefusedByte.fetch8 {k : Nat} (h : RefusedByte s k) {i : Len} (h1 : i.toNat ≤ k) (h2 : k < i.toNat + 1) :
    ∃ e, fetch8 s i = .error e := memRead_refused (refused_at h h1 h2)

theorem RefusedByte.fetch32 {k : Nat} (h : RefusedByte s k) {i : Len} (h1 : i.toNat ≤ k) (h2 : k < i.toNat + 4) :
    ∃ e, fetch32 s i = .error e := memRead_refused (refused_at h h1 h2)

theorem RefusedByte.fetch64 {k : Nat} (h : RefusedByte s k) {i : Len} (h1 : i.toNat ≤ k) (h2 : k < i.toNat + 8) :
    ∃ e, fetch64 s i = .error e := memRead_refused (refused_at h h1 h2)

theorem RefusedByte.fetchQuad {k : Nat} (h : RefusedByte s k) {o : Len} (h1 : o.toNat ≤ k) (h2 : k < o.toNat + 32) :
    ∃ e, fetchQuad s o = .error e := fetchQuad_refused (refused_at h h1 h2)

theorem RefusedByte.fetchBlock {k : Nat} (h : RefusedByte s k) {p : Len} (h1 : p.toNat ≤ k) (h2 : k < p.toNat + 64) :
    ∃ e, fetchBlock s p = .error e := fetchBlock_refused (refused_at h h1 h2)

/-- An offset counted from the end of the window. -/
theorem len_sub_toNat {n d : Len} (h : d.toNat ≤ n.toNat) : (n - d).toNat = n.toNat - d.toNat :=
  BitVec.toNat_sub_of_le (BitVec.le_def.mpr h)

theorem len_half_toNat (n : Len) : (n >>> 1).toNat = n.toNat / 2 := by
  rw [BitVec.toNat_ushiftRight, Nat.shiftRight_eq_div_pow, Nat.pow_one]

/-- First, middle and last byte cover a window of up to 3 bytes. -/
theorem hl1to3Value_refused {k : Nat} (h : RefusedByte s k) (hk : k < s.len.toNat) (hi : s.len.toNat ≤ 3) :
    ∃ e, hl1to3Value s = .error e := by
  have half := len_half_toNat s.len
  have last : (s.len - 1).toNat = s.len.toNat - 1 := len_sub_toNat (by show 1 ≤ _; omega)
  unfold hl1to3Value
  by_cases h0 : k = 0
  · exact bind_refused _ (h.fetch8 (by simp) (by simp [h0]))
  refine bind_refused_after _ fun _ => ?_
  by_cases h1 : k = s.len.toNat / 2
  · exact bind_refused _ (h.fetch8 (by omega) (by omega))
  refine bind_refused_after _ fun _ => ?_
  exact bind_refused _ (h.fetch8 (by omega) (by omega))

theorem hl4to7Value_refused {k : Nat} (h : RefusedByte s k) (hk : k < s.len.toNat) (lo : 4 ≤ s.len.toNat)
    (hi : s.len.toNat ≤ 7) : ∃ e, hl4to7Value s = .error e := by
  have last : (s.len - 4).toNat = s.len.toNat - 4 := len_sub_toNat lo
  unfold hl4to7Value
  by_cases h0 : k < 4
  · exact bind_refused _ (h.fetch32 (by simp) (by simpa using h0))
  refine bind_refused_after _ fun _ => ?_
  exact bind_refused _ (h.fetch32 (by omega) (by omega))

theorem hl8to16Value_refused {k : Nat} (h : RefusedByte s k) (hk : k < s.len.toNat) (lo : 8 ≤ s.len.toNat)
    (hi : s.len.toNat ≤ 16) : ∃ e, hl8to16Value s = .error e := by
  have last : (s.len - 8).toNat = s.len.toNat - 8 := len_sub_toNat lo
  unfold hl8to16Value
  by_cases h0 : k < 8
  · exact bind_refused _ (h.fetch64 (by simp) (by simpa using h0))
  refine bind_refused_after _ fun _ => ?_
  exact bind_refused _ (h.fetch64 (by omega) (by omega))

theorem hl0to16Value_refused {k : Nat} (h : RefusedByte s k) (hk : k < s.len.toNat) (hi : s.len.toNat ≤ 16) :
    ∃ e, hl0to16Value s = .error e := by
  unfold hl0to16Value
  split_ifs with h8 h4 h0
  · exact hl8to16Value_refused h hk h8 hi
  · exact hl4to7Value_refused h hk h4 (by omega)
  · exact hl1to3Value_refused h hk (by omega)
  · omega

theorem hl17to32Value_refused {k : Nat} (h : RefusedByte s k) (hk : k < s.len.toNat) (lo : 17 ≤ s.len.toNat)
    (hi : s.len.toNat ≤ 32) : ∃ e, hl17to32Value s = .error e := by
  have last : (s.len - 8).toNat = s.len.toNat - 8 := len_sub_toNat (by show 8 ≤ _; omega)
  have beforeLast : (s.len - 16).toNat = s.len.toNat - 16 := len_sub_toNat (by show 16 ≤ _; omega)
  unfold hl17to32Value
  by_cases h0 : k < 8
  · exact bind_refused _ (h.fetch64 (by simp) (by simpa using h0))
  refine bind_refused_after _ fun _ => ?_
  by_cases h1 : k < 16
  · exact bind_refused _ (h.fetch64 (by show 8 ≤ k; omega) (by show k < 16; omega))
  refine bind_refused_after _ fun _ => ?_
  by_cases h2 : s.len.toNat - 8 ≤ k
  · exact bind_refused _ (h.fetch64 (by omega) (by omega))
  refine bind_refused_after _ fun _ => ?_
  exact bind_refused _ (h.fetch64 (by omega) (by omega))

theorem hl33to64Value_refused {k : Nat} (h : RefusedByte s k) (hk : k < s.len.toNat) (lo : 33 ≤ s.len.toNat)
    (hi : s.len.toNat ≤ 64) : ∃ e, hl33to64Value s = .error e := by
  have last : (s.len - 32).toNat = s.len.toNat - 32 := len_sub_toNat (by show 32 ≤ _; omega)
  unfold hl33to64Value
  by_cases h0 : k < 32
  · exact bind_refused _ (h.fetchQuad (by simp) (by simpa using h0))
  refine bind_refused_after _ fun _ => ?_
  exact bind_refused _ (h.fetchQuad (by omega) (by omega))

theorem hl65to96Value_refused {k : Nat} (h : RefusedByte s k) (hk : k < s.len.toNat) (lo : 65 ≤ s.len.toNat)
    (hi : s.len.toNat ≤ 96) : ∃ e, hl65to96Value s = .error e := by
  have last : (s.len - 32).toNat = s.len.toNat - 32 := len_sub_toNat (by show 32 ≤ _; omega)
  unfold hl65to96Value
  by_cases h0 : k < 32
  · exact bind_refused _ (h.fetchQuad (by simp) (by simpa using h0))
  refine bind_refused_after _ fun _ => ?_
  by_cases h1 : k < 64
  · exact bind_refused _ (h.fetchQuad (by show 32 ≤ k; omega) (by show k < 64; omega))
  refine bind_refused_after _ fun _ => ?_
  exact bind_refused _ (h.fetchQuad (by omega) (by omega))

/-- Settles O30: the reads of each routine cover its window, so the refused byte refuses one of them. -/
theorem routinesTrapOnAnyRefusedByte : Obligations.RoutinesTrapOnAnyRefusedByte := by
  intro s hp hf hx
  obtain ⟨k, hk, h⟩ := refusedByte_of_refusedAt hx
  refine ⟨fun hi => ?_, fun hi => ?_, fun hn => ?_, fun hn => ?_, fun hn => ?_, fun hn => ?_, fun hn => ?_⟩
  · exact selectedRoutine_refused hp hf ⟨Nat.zero_le _, hi⟩ (hl0to16Value_refused h hk hi)
  · exact selectedRoutine_refused hp hf ⟨by omega, hi⟩ (hl1to3Value_refused h hk hi)
  · exact selectedRoutine_refused hp hf hn (hl4to7Value_refused h hk hn.1 hn.2)
  · exact selectedRoutine_refused hp hf hn (hl8to16Value_refused h hk hn.1 hn.2)
  · exact selectedRoutine_refused hp hf hn (hl17to32Value_refused h hk hn.1 hn.2)
  · exact selectedRoutine_refused hp hf hn (hl33to64Value_refused h hk hn.1 hn.2)
  · exact selectedRoutine_refused hp hf hn (hl65to96Value_refused h hk hn.1 hn.2)

end Sys2Proof.Machine
end

section
/-! PROOF. Acceptance and the sequencer steps (spec/40_command_dispatch.md, spec/44_streaming_na.md,
spec/45_streaming_uo.md): what each does where it is enabled, where it is not, and where a byte is refused. -/

namespace Sys2Proof.Machine

variable {s : State} {B : List Byte}

/-! ### START_ACCEPT -/

/-- Settles O32: the step is `accept` after `latch`, and a streaming length draws no free value for `END`. -/
theorem startAcceptLatchesTheCommand : Obligations.StartAcceptLatchesTheCommand := by
  refine fun s h =>
    ⟨(latch s).endOff, (latch s).free, startAccept_of_ready h, fun h97 => ⟨latch_endOff_toNat h97, ?_⟩⟩
  rw [latch_free, if_pos (by simpa [streams] using h97)]

theorem windowWraps_eq_true :
    windowWraps s = true ↔ s.length ≠ 0 ∧ 2 ^ 64 < s.base.toNat + s.offset.toNat + s.length.toNat := by
  simp [windowWraps]

/-- A device reaches into the window exactly if it shares an address with it. -/
theorem windowTouchesDevice_eq_true : windowTouchesDevice s = true ↔
    ∃ d ∈ s.devices, ∃ a, (s.base + s.offset).toNat ≤ a ∧ a < (s.base + s.offset).toNat + s.length.toNat ∧
      d.1 ≤ a ∧ a < d.1 + d.2 := by
  rw [windowTouchesDevice, windowStart, List.any_eq_true]
  refine exists_congr fun d => and_congr_right fun _ => ?_
  rw [decide_eq_true_eq]
  refine ⟨fun h => ?_, fun ⟨a, _, _, _, _⟩ => by omega⟩
  exact ⟨max d.1 (s.base + s.offset).toNat, by omega, by omega, by omega, by omega⟩

/-- A launch that breaks the contract is refused by the step and by the command alike. -/
theorem exec_of_launchRefusal {r : Refusal} (hp : s.phase = .idle) (hf : s.memFault = false)
    (h : launchRefusal s = some r) : exec .startAccept s = .refused r ∧ exec .hash64 s = .refused r := by
  have ready : startIgnored s = false := startIgnored_eq_false.mpr ⟨hp, hf⟩
  have accept : startAccept s = .refused r := by simp [startAccept, ready, h]
  exact ⟨accept, by simp [exec, execHash64, ready, accept]⟩

/-- Settles O35: each breach is the guard of its refusal, the earlier guards being passed. -/
theorem startRefusesABrokenContract : Obligations.StartRefusesABrokenContract := by
  intro s hp hf written wraps touches
  have written_iff : (s.baseWritten && s.offsetWritten && s.lengthWritten) = true ↔ written := by
    simp [written, and_assoc]
  refine ⟨fun hw => ?_, fun hw hwraps => ?_, fun hw hwraps htouches => ?_⟩
  · exact exec_of_launchRefusal hp hf (by simp [launchRefusal, mt written_iff.mp hw])
  · exact exec_of_launchRefusal hp hf (by
      simp [launchRefusal, written_iff.mpr hw, windowWraps_eq_true.mpr hwraps])
  · exact exec_of_launchRefusal hp hf (by
      simp [launchRefusal, written_iff.mpr hw, mt windowWraps_eq_true.mp hwraps,
        windowTouchesDevice_eq_true.mpr htouches])

/-! ### A sequencer step under its own label -/

theorem sequencerStep_closed {e : Bool} (r : Except Addr State) (h : e = false ∨ s.memFault = true) :
    sequencerStep s e r = .refused .notEnabled := by
  obtain he | hf := h
  · simp [sequencerStep, he]
  · simp [sequencerStep, hf]

/-- The guard of a step that one phase and one tier enable. -/
theorem sequencerStep_in {p : Phase} {x : Tier} (r : Except Addr State) (hp : s.phase = p) (ht : s.tier = x)
    (hf : s.memFault = false) :
    sequencerStep s (decide (s.phase = p) && decide (s.tier = x)) r = .next (commit s r) :=
  sequencerStep_enabled r (by simp [hp, ht]) hf

theorem sequencerStep_not_in {p : Phase} {x : Tier} (r : Except Addr State)
    (h : s.phase ≠ p ∨ s.tier ≠ x ∨ s.memFault = true) :
    sequencerStep s (decide (s.phase = p) && decide (s.tier = x)) r = .refused .notEnabled := by
  refine sequencerStep_closed r ?_
  obtain hp | ht | hf := h
  · exact .inl (by simp [hp])
  · exact .inl (by simp [ht])
  · exact .inr hf

/-- Settles O44: all eight steps of a tier have the guard of `sequencerStep`. -/
theorem sequencerStepsNeedTheirPhase : Obligations.SequencerStepsNeedTheirPhase := by
  refine ⟨fun s h => ?_, fun s row hrow => ?_⟩
  · exact sequencerStep_closed _ (h.imp_left fun hp => by simp [hp])
  · simp only [List.mem_cons, List.not_mem_nil, or_false] at hrow
    obtain rfl | rfl | rfl | rfl | rfl | rfl | rfl | rfl := hrow
    all_goals exact sequencerStep_not_in _

/-! ### RUN_TIER -/

theorem exec_runTier (hp : s.phase = .init) (hf : s.memFault = false) :
    exec .runTier s = .next (commit s (runTier s)) := sequencerStep_enabled _ (decide_eq_true hp) hf

theorem runTier_na (ht : s.tier = .na) : runTier s = naInit s := by rw [runTier, ht]

theorem runTier_uo (ht : s.tier = .uo) : runTier s = uoInit s := by rw [runTier, ht]

/-- The tiers of the two streaming ranges of R102. -/
theorem dispatch_na {n : Len} (lo : 96 < n.toNat) (hi : n.toNat ≤ 256) : dispatch n = .na := by
  rw [dispatch, if_neg (by omega), if_neg (by omega), if_neg (by omega), if_neg (by omega), if_pos hi]

theorem dispatch_uo {n : Len} (lo : 256 < n.toNat) : dispatch n = .uo := by
  rw [dispatch, if_neg (by omega), if_neg (by omega), if_neg (by omega), if_neg (by omega), if_neg (by omega)]

/-- Settles O36: up to 96 the latched tier's routine, above it the seeding step under the same guard. -/
theorem runTierRunsTheLatchedTier : Obligations.RunTierRunsTheLatchedTier := by
  intro s B h hp ht
  have size := h.size
  rw [exec_runTier hp h.noFault]
  refine ⟨fun hi => ?_, fun lo hi => ?_, fun lo => ?_⟩
  · rw [runTier_of_short h ht hi]
    rfl
  · have na : s.tier = .na := ht.trans (dispatch_na (by omega) (by omega))
    rw [runTier_na na]
    exact (sequencerStep_in _ hp na h.noFault).symm
  · have uo : s.tier = .uo := ht.trans (dispatch_uo (by omega))
    rw [runTier_uo uo]
    exact (sequencerStep_in _ hp uo h.noFault).symm

/-! ### The NA steps -/

/-- The NA seeds, computed (R182). -/
theorem naSeed_eq (first : U64) (w : Work) : naSeed first w =
    { w with
      x := 0x01529cba0ca458ff + first, y := 0x226bb95b4e64b6d4, z := 0x134a747f856d0526
      v1 := 0, v2 := 0, w1 := 0, w2 := 0 } := by
  have x : (81 : U64) * k2 = 0x01529cba0ca458ff := by decide
  have y : (81 : U64) * k1 + 113 = 0x226bb95b4e64b6d4 := by decide
  have z : shiftMix ((0x226bb95b4e64b6d4 : U64) * k2 + 113) * k2 = 0x134a747f856d0526 := by decide
  simp only [naSeed, x, y, z]

theorem advanceBlock_in_block (hp : s.phase = .block) (w : Work) : advanceBlock (setWork w s) =
    { s with work := w, pos := s.pos + 64, phase := if s.pos + 64 = s.endOff then .final else .block } := by
  simp only [advanceBlock, setWork, hp]

/-- Settles O37: the first word is read, and the seeds are computed. -/
theorem naInitSeedsTheRegisters : Obligations.NaInitSeedsTheRegisters := by
  intro s B h hp ht h8
  refine (sequencerStep_in _ hp ht h.noFault).trans ?_
  rw [naInit, fetch64_of_holds h.holds 0 (by simpa using h8), except_map_ok, commit_ok, naSeed_eq]
  rfl

/-- Settles O38: the register update, its assignments carried through, is the statement's. -/
theorem naBlockUpdatesTheRegisters : Obligations.NaBlockUpdatesTheRegisters := by
  intro s B h hp ht hpos p w x y z a b c d q r
  have mix : naMix (blockOf B p) w =
      { w with
        x := z, y := y, z := x
        v1 := specWeak1 q.w0 q.w1 q.w2 q.w3 a, v2 := specWeak2 q.w0 q.w1 q.w2 q.w3 a b
        w1 := specWeak1 r.w0 r.w1 r.w2 r.w3 c, w2 := specWeak2 r.w0 r.w1 r.w2 r.w3 c d } := by
    simp only [naMix, weakQuad_eq, rotr_eq_rotateRight, Nat.reduceLT]
    rfl
  refine (sequencerStep_in _ hp ht h.noFault).trans ?_
  rw [naBlock_eq, fetchBlock_of_holds h.holds h.length_lt _ hpos, except_map_ok, commit_ok, advanceBlock_in_block hp,
    mix]

/-- The last 64 bytes of a held window. -/
theorem Running.fetchBlock_last (h : Running s B) (h64 : 64 ≤ B.length) :
    fetchBlock s (lastOffset s.len) = .ok (blockOf B (B.length - 64)) := by
  have last : (lastOffset s.len).toNat = B.length - 64 := by
    rw [lastOffset_toNat (by rw [h.size]; exact h64), h.size]
  rw [fetchBlock_of_holds h.holds h.length_lt _ (by omega), last]

theorem releaseNa_complete (d : U64) (s : State) : releaseNa (complete d s) =
    { s with
      digest := d, busy := false, done := true, phase := .idle, work := (releaseNa s).work, free := s.free + 8 } := rfl

theorem releaseUo_complete (d : U64) (s : State) : releaseUo (complete d s) =
    { s with
      digest := d, busy := false, done := true, phase := .idle, work := (releaseUo s).work, free := s.free + 9 } := rfl

/-- Settles O39: the last block is read, and the final pass, its assignments carried through, gives the digest. -/
theorem naFinalCompletesTheCommand : Obligations.NaFinalCompletesTheCommand := by
  intro s B h hp ht h64 p w mul t1 v1 w1 x y z a b c d q r v1' v2' w1' w2'
  have digest : naDigest (naFinalMix (BitVec.ofNat 64 ((B.length - 1) % 64)) (blockOf B p) w) =
      specHash16 (specHash16 v1' w1' mul + (y ^^^ (y >>> 47)) * specK0 + x) (specHash16 v2' w2' mul + z) mul := by
    simp only [naDigest, naFinalMix, weakQuad_eq, rotr_eq_rotateRight, Nat.reduceLT]
    rfl
  refine ⟨(releaseNa s).work, s.free + 8, rfl, (sequencerStep_in _ hp ht h.noFault).trans ?_⟩
  rw [naFinal_eq, h.fetchBlock_last h64, except_map_ok, commit_ok, h.tailLength_eq (by omega), digest,
    releaseNa_complete]

/-! ### The UO steps -/

/-- The UO seeds, computed (R201). -/
theorem uoSeed_eq : uoSeed =
    { x := 0x01529cba0ca458ff, y := 0x71, z := 0x7cb371d23f5eb1e0, u := 0x834c8e2dc0a14e71, v1 := 0x51
      v2 := 0, w1 := 0, w2 := 0, mul := 0x9ae16a3b2f90404f } := by decide

/-- Settles O40: the seeds are computed. -/
theorem uoInitSetsTheTable : Obligations.UoInitSetsTheTable := by
  intro s hp ht hf
  refine (sequencerStep_in _ hp ht hf).trans ?_
  rw [uoInit, commit_ok, uoSeed_eq]
  rfl

/-- Settles O41: the four groups, their assignments carried through, are the statement's. -/
theorem uoBlockUpdatesTheRegisters : Obligations.UoBlockUpdatesTheRegisters := by
  intro s B h hp ht hpos p w a0 a1 a2 a3 a4 a5 a6 a7 x2 y2 v1₂ v2₂ w1₂ zt w2₂ z3 v1₃ v2₃ w1₃ w2₃ x3 y4 v2₄ w2₄
  have mix : uoMix (blockOf B p) w =
      { w with
        x := x3 + w2₄, y := y4, z := y2, u := z3, v1 := v1₃ + (x3 - y4), v2 := v2₄, w1 := w1₃ + v2₄
        w2 := w2₄.rotateRight 34 } := by
    simp only [uoMix, uoAbsorb, uoRotate, uoReabsorb, uoCross, rotr_eq_rotateRight, Nat.reduceLT]
    rfl
  refine (sequencerStep_in _ hp ht h.noFault).trans ?_
  rw [uoBlock_eq, fetchBlock_of_holds h.holds h.length_lt _ hpos, except_map_ok, commit_ok, advanceBlock_in_block hp,
    mix]

/-- Settles O42: the last block is read, and the final pass, its assignments carried through, gives the digest. -/
theorem uoFinalCompletesTheCommand : Obligations.UoFinalCompletesTheCommand := by
  intro s B h hp ht h64 p w v2 v1 w1 u y1 x y z a b c d q r v1' v2' w1' w2'
  have digest : uoDigest (uoFinalMix (BitVec.ofNat 64 ((B.length - 1) % 64)) (blockOf B p) w) =
      specHuo (specHash16 (v1' + x) (w1' ^^^ y) w.mul + z - u)
        (specHuo (v2' + y) (w2' + z) specK2 30 ^^^ x) specK2 31 := by
    simp only [uoDigest, uoFinalMix, weakQuad_eq, huoMix_eq, rotr_eq_rotateRight, Nat.reduceLT]
    rfl
  refine ⟨(releaseUo s).work, s.free + 9, (sequencerStep_in _ hp ht h.noFault).trans ?_⟩
  rw [uoFinal_eq, h.fetchBlock_last h64, except_map_ok, commit_ok, h.tailLength_eq (by omega), digest,
    releaseUo_complete]

/-! ### A refused byte -/

/-- A refused window byte refuses the routine that a length up to 96 selects. -/
theorem runTier_refused {k : Nat} (h : RefusedByte s k) (hk : k < s.len.toNat) (ht : s.tier = dispatch s.len)
    (hi : s.len.toNat ≤ 96) : ∃ e, runTier s = .error e := by
  unfold runTier
  obtain ⟨hn, e⟩ | ⟨lo, hn, e⟩ | ⟨lo, hn, e⟩ | ⟨lo, hn, e⟩ | ⟨lo, -, -⟩ | ⟨lo, -⟩ := dispatch_eq s.len
  · rw [ht, e]
    exact map_refused _ (hl0to16Value_refused h hk hn)
  · rw [ht, e]
    exact map_refused _ (hl17to32Value_refused h hk lo hn)
  · rw [ht, e]
    exact map_refused _ (hl33to64Value_refused h hk lo hn)
  · rw [ht, e]
    exact map_refused _ (hl65to96Value_refused h hk lo hn)
  · omega
  · omega

theorem sequencerStep_refused {p : Phase} {x : Tier} {r : Except Addr State} (hf : s.memFault = false)
    (hp : s.phase = p) (ht : s.tier = x) (hr : ∃ e, r = .error e) :
    sequencerStep s (decide (s.phase = p) && decide (s.tier = x)) r = .next { s with memFault := true } := by
  rw [sequencerStep_in r hp ht hf, commit_refused hr]

/-- Settles O43: the refused byte is one of those the step reads. -/
theorem sequencerStepsTrapOnARefusedByte : Obligations.SequencerStepsTrapOnARefusedByte := by
  intro s hf
  refine ⟨fun hp ht hi hx => ?_, fun hp ht hx => ?_, fun hp ht hx => ?_, fun hp ht hx => ?_, fun hp ht hx => ?_,
    fun hp ht hx => ?_⟩
  · obtain ⟨k, hk, h⟩ := refusedByte_of_refusedAt hx
    rw [exec_runTier hp hf, commit_refused (runTier_refused h hk ht hi)]
  · have init : ∃ e, naInit s = .error e := map_refused _ (memRead_refused hx)
    refine ⟨sequencerStep_refused hf hp ht init, ?_⟩
    rw [exec_runTier hp hf, runTier_na ht, commit_refused init]
  · exact sequencerStep_refused hf hp ht (map_refused _ (fetchBlock_refused hx))
  · exact sequencerStep_refused hf hp ht (map_refused _ (fetchBlock_refused hx))
  · exact sequencerStep_refused hf hp ht (map_refused _ (fetchBlock_refused hx))
  · exact sequencerStep_refused hf hp ht (map_refused _ (fetchBlock_refused hx))

end Sys2Proof.Machine
end

section
/-! PROOF. Whole routines and commands (spec/40_command_dispatch.md, R185, R204): over a held window they end with the
reference digest, over a window with a refused byte they end held, and the atomic command is its own steps, run one by
one. -/

namespace Sys2Proof.Machine

variable {s t u : State} {B : List Byte} {x : Tier} {init block final : State → Except Addr State}

/-! ### The streaming routines over a held window -/

/-- `U` is no operand of the NA blocks (R21). -/
theorem absorbBlocks_na_u (B : List Byte) (k p : Nat) (w : Work) : (absorbBlocks naMix B k p w).u = w.u := by
  have through := congrArg Work.u (absorbBlocks_na_with_u_mul B w.u w.mul k p w)
  exact through

theorem runNa_work_u (h : Running s B) (lo : 97 ≤ B.length) (hend : s.endOff.toNat = (B.length - 1) / 64 * 64) :
    (runNa s).work.u = s.work.u := by
  have init : naInit s = .ok (enterLoop (setWork (naSeed (wordOf B 0 8) s.work) s)) := by
    rw [naInit, fetch64_of_holds h.holds 0 (by simp; omega)]
    rfl
  rw [runNa, runStream_of_running h lo hend init naBlock_eq naFinal_eq]
  exact absorbBlocks_na_u ..

/-- The latches of a running streaming command, from the invariant. -/
theorem Running.streaming_latches (h : Running s B) (inv : MachineInv s) (ht : s.tier = .na ∨ s.tier = .uo) :
    97 ≤ B.length ∧ s.endOff.toNat = (B.length - 1) / 64 * 64 := by
  have h97 := inv.streaming_length h.running ht
  have hend := inv.endOfLength h.running h97
  rw [h.size] at h97 hend
  exact ⟨h97, hend⟩

/-- The lengths of the NA tier are those up to 256, the longer ones are the UO tier's (R102). -/
theorem dispatch_na_iff {n : Len} (h97 : 97 ≤ n.toNat) : dispatch n = .na ↔ n.toNat ≤ 256 := by
  by_cases hi : n.toNat ≤ 256
  · simp [hi, dispatch_na h97 hi]
  · simp [hi, dispatch_uo (Nat.lt_of_not_le hi)]

/-- Settles O45: `runNa_of_running` gives the state at the end, and the blocks pass `U` through. -/
theorem h64naHashesItsWindow : Obligations.H64naHashesItsWindow := by
  intro s B inv h hp ht
  obtain ⟨lo, hend⟩ := h.streaming_latches inv (.inl ht)
  have hi : B.length ≤ 256 := by
    have na : dispatch s.len = .na := (inv.tierOfLength h.running).symm.trans ht
    rwa [dispatch_na_iff (by rw [h.size]; exact lo), h.size] at na
  obtain ⟨w, hw⟩ := runNa_of_running h lo hi hend
  have hu : (releaseNa (complete (hashBytes B) (loopDone w s))).work.u = s.work.u := hw ▸ runNa_work_u h lo hend
  refine ⟨(releaseNa (loopDone w s)).work, s.free + 8, hu, (sequencerStep_in _ hp ht h.noFault).trans ?_⟩
  rw [commit_ok, hw]
  rfl

/-- Settles O46: `runUo_of_running` gives the state at the end. -/
theorem h64uoHashesItsWindow : Obligations.H64uoHashesItsWindow := by
  intro s B inv h hp ht
  obtain ⟨h97, hend⟩ := h.streaming_latches inv (.inr ht)
  have lo : 257 ≤ B.length := by
    by_contra hlt
    have na : dispatch s.len = .na := (dispatch_na_iff (by rw [h.size]; exact h97)).mpr (by rw [h.size]; omega)
    cases (ht.symm.trans (inv.tierOfLength h.running)).trans na
  refine ⟨(releaseUo (loopDone (uoAbsorbed B) s)).work, s.free + 9, (sequencerStep_in _ hp ht h.noFault).trans ?_⟩
  rw [commit_ok, runUo_of_running h lo hend]
  rfl

/-! ### The command over a held window -/

/-- The routine the latched tier names, by the length (R102, R103). -/
theorem runCommand_cases (ht : s.tier = dispatch s.len) :
    (s.len.toNat ≤ 96 ∧ runCommand s = commit s (runTier s)) ∨
      (97 ≤ s.len.toNat ∧ s.len.toNat ≤ 256 ∧ s.tier = .na ∧ runCommand s = runNa s) ∨
      (257 ≤ s.len.toNat ∧ s.tier = .uo ∧ runCommand s = runUo s) := by
  unfold runCommand
  obtain ⟨hn, e⟩ | ⟨-, hn, e⟩ | ⟨-, hn, e⟩ | ⟨-, hn, e⟩ | ⟨lo, hn, e⟩ | ⟨lo, e⟩ := dispatch_eq s.len
  case' inr.inr.inr.inr.inl => exact .inr (.inl ⟨lo, hn, ht.trans e, by rw [ht, e]⟩)
  case' inr.inr.inr.inr.inr => exact .inr (.inr ⟨lo, ht.trans e, by rw [ht, e]⟩)
  all_goals exact .inl ⟨by omega, by rw [ht, e]⟩

/-- What a completed command leaves: its digest, the flags of `Complete`, and for the streaming tiers other values in
the working registers and `POS`; nothing else of the state. -/
theorem runCommand_completes (h : Running s B) (ht : s.tier = dispatch s.len)
    (hend : 97 ≤ B.length → s.endOff.toNat = (B.length - 1) / 64 * 64) :
    ∃ (regs : Work) (p : Len) (f : Nat),
      runCommand s =
        { s with
          digest := hashBytes B, busy := false, done := true, phase := .idle, work := regs, pos := p, free := f } ∧
      (B.length ≤ 96 → regs = s.work ∧ p = s.pos) := by
  have cases := runCommand_cases ht
  rw [h.size] at cases
  obtain ⟨hi, e⟩ | ⟨lo, hi, -, e⟩ | ⟨lo, -, e⟩ := cases
  · refine ⟨s.work, s.pos, s.free, ?_, fun _ => ⟨rfl, rfl⟩⟩
    rw [e, runTier_of_short h ht hi, commit_ok]
    rfl
  · obtain ⟨w, hw⟩ := runNa_of_running h lo hi (hend lo)
    exact ⟨(releaseNa (loopDone w s)).work, s.endOff, s.free + 8, e.trans hw, by omega⟩
  · have hw := runUo_of_running h lo (hend (by omega))
    exact ⟨(releaseUo (loopDone (uoAbsorbed B) s)).work, s.endOff, s.free + 9, e.trans hw, by omega⟩

/-- Settles O47: the accepted command completes, and each field is read off the state it leaves. -/
theorem hash64DigestIsTheHashOfTheWindow : Obligations.Hash64DigestIsTheHashOfTheWindow := by
  intro s B ready hl hw
  obtain ⟨regs, p, f, hrun, hshort⟩ := runCommand_completes (running_of_ready ready hl hw) rfl fun h97 => by
    rw [accept_endOff, latch_endOff_toNat (by omega), hl]
  refine ⟨_, (execHash64_of_ready ready).trans (congrArg _ hrun), ?_⟩
  exact ⟨rfl, rfl, rfl, rfl, ready.noFault, rfl, rfl, rfl, rfl, rfl, rfl, rfl, rfl, rfl, rfl, rfl, rfl, rfl,
    ready.baseWritten, ready.offsetWritten, ready.lengthWritten, hshort⟩

/-! ### The two streaming tiers, as the rest of this file needs them -/

/-- The three steps of the streaming tier `x`: what they do where they succeed, that a refused byte of their block
refuses them, and that the core runs them in their phases. -/
structure StreamTier (x : Tier) (init block final : State → Except Addr State) : Prop where
  enters : ∀ s t, init s = .ok t → ∃ w, t = enterLoop (setWork w s)
  movesOn : MovesOn block
  blockReads : ∀ s, (∃ e, fetchBlock s s.pos = .error e) → ∃ e, block s = .error e
  finalReads : ∀ s, (∃ e, fetchBlock s (lastOffset s.len) = .error e) → ∃ e, final s = .error e
  initStep : ∀ s, s.agenda = [] → s.memFault = false → s.phase = .init → s.tier = x →
    step s = .next (commit s (init s))
  blockStep : ∀ s, s.agenda = [] → s.memFault = false → s.phase = .block → s.tier = x →
    step s = .next (commit s (block s))
  finalStep : ∀ s, s.agenda = [] → s.memFault = false → s.phase = .final → s.tier = x →
    step s = .next (commit s (final s))

theorem step_runTier (hl : s.agenda = []) (hf : s.memFault = false) (hp : s.phase = .init) :
    step s = .next (commit s (runTier s)) := by
  obtain ⟨-, turn, -⟩ := coreTurn_runs hf
  rw [step_quiet hl hf, turn hp, exec_runTier hp hf]

theorem streamTier_na : StreamTier .na naInit naBlock naFinal where
  enters s t h := by
    obtain ⟨first, -, rfl⟩ := naInit_ok h
    exact ⟨_, rfl⟩
  movesOn := movesOn_naBlock
  blockReads _ := map_refused _
  finalReads _ := map_refused _
  initStep s hl hf hp ht := by rw [step_runTier hl hf hp, runTier_na ht]
  blockStep s hl hf hp ht := by
    obtain ⟨-, -, turn, -⟩ := coreTurn_runs hf
    rw [step_quiet hl hf, turn hp ht]
    exact sequencerStep_in _ hp ht hf
  finalStep s hl hf hp ht := by
    obtain ⟨-, -, -, -, turn, -⟩ := coreTurn_runs hf
    rw [step_quiet hl hf, turn hp ht]
    exact sequencerStep_in _ hp ht hf

theorem streamTier_uo : StreamTier .uo uoInit uoBlock uoFinal where
  enters s t h := ⟨_, uoInit_ok h⟩
  movesOn := movesOn_uoBlock
  blockReads _ := map_refused _
  finalReads _ := map_refused _
  initStep s hl hf hp ht := by rw [step_runTier hl hf hp, runTier_uo ht]
  blockStep s hl hf hp ht := by
    obtain ⟨-, -, -, turn, -⟩ := coreTurn_runs hf
    rw [step_quiet hl hf, turn hp ht]
    exact sequencerStep_in _ hp ht hf
  finalStep s hl hf hp ht := by
    obtain ⟨-, -, -, -, -, turn⟩ := coreTurn_runs hf
    rw [step_quiet hl hf, turn hp ht]
    exact sequencerStep_in _ hp ht hf

/-! ### A refused window byte -/

/-- The loop reads every byte from `POS` to `END`. -/
theorem runBlocks_refused (tier : StreamTier x init block final) {k : Nat} (n : Nat) (s : State) (h : RefusedByte s k)
    (hlo : s.pos.toNat ≤ k) (hhi : k < s.pos.toNat + 64 * n) (hend : s.pos.toNat + 64 * n ≤ s.endOff.toNat) :
    (runBlocks block n s).memFault = true := by
  induction n generalizing s with
  | zero => omega
  | succ n ih =>
    unfold runBlocks
    split
    · rename_i t hblock
      obtain ⟨w, rfl⟩ := tier.movesOn s t hblock
      have hpos : (s.pos + 64).toNat = s.pos.toNat + 64 := by
        have := s.endOff.isLt
        bv_omega
      have past : s.pos.toNat + 64 ≤ k := by
        by_contra hlt
        obtain ⟨e, he⟩ := tier.blockReads s (h.fetchBlock hlo (by omega))
        cases hblock.symm.trans he
      refine ih _ h ?_ ?_ ?_
      · rw [advanceBlock_pos, setWork_pos, hpos]
        exact past
      · rw [advanceBlock_pos, setWork_pos, hpos]
        omega
      · rw [advanceBlock_pos, setWork_pos, advanceBlock_endOff, setWork_endOff, hpos]
        omega
    · rfl

/-- The loop and the final step read every byte of the window: the loop those below `END`, the final step the last
64. -/
theorem runStream_refused (tier : StreamTier x init block final) {k : Nat} (h : RefusedByte s k)
    (hk : k < s.len.toNat) (h97 : 97 ≤ s.len.toNat) (hend : s.endOff.toNat = (s.len.toNat - 1) / 64 * 64) :
    (runStream init block final s).memFault = true ∧ SameCommand s (runStream init block final s) := by
  unfold runStream
  split
  · exact ⟨rfl, sameCommand_recordMemFault s⟩
  · obtain ⟨w, rfl⟩ := tier.enters _ _ ‹_›
    have loop := (sameCommand_enterLoop w s).trans
      (sameCommand_runBlocks tier.movesOn (blockCount s.endOff) (enterLoop (setWork w s)))
    dsimp only
    split
    · exact ⟨‹_›, loop⟩
    · have count : 64 * blockCount s.endOff = s.endOff.toNat := by rw [blockCount]; omega
      have tail : s.len.toNat - 64 ≤ k := by
        by_contra hlt
        refine ‹¬_› (runBlocks_refused tier _ (enterLoop (setWork w s)) h ?_ ?_ ?_)
        · simp
        · simp; omega
        · simp; omega
      have last : (lastOffset s.len).toNat = s.len.toNat - 64 := lastOffset_toNat (by omega)
      generalize runBlocks block (blockCount s.endOff) (enterLoop (setWork w s)) = v at *
      have byte : RefusedByte v k := by
        rw [RefusedByte, loop.mem, loop.startAddr]
        exact h
      rw [← loop.len] at tail last hk
      obtain ⟨e, he⟩ := tier.finalReads v (byte.fetchBlock (by omega) (by omega))
      rw [he, commit_error]
      exact ⟨rfl, loop.trans (sameCommand_recordMemFault v)⟩

/-- A command over a window with a refused byte ends held: the fault recorded, the command as it was. -/
theorem runCommand_refused {k : Nat} (h : RefusedByte s k) (hk : k < s.len.toNat) (ht : s.tier = dispatch s.len)
    (hend : 97 ≤ s.len.toNat → s.endOff.toNat = (s.len.toNat - 1) / 64 * 64) :
    (runCommand s).memFault = true ∧ SameCommand s (runCommand s) := by
  obtain ⟨hi, e⟩ | ⟨lo, -, -, e⟩ | ⟨lo, -, e⟩ := runCommand_cases ht
  · rw [e, commit_refused (runTier_refused h hk ht hi)]
    exact ⟨rfl, sameCommand_recordMemFault s⟩
  · rw [e]
    exact runStream_refused streamTier_na h hk lo (hend lo)
  · rw [e]
    exact runStream_refused streamTier_uo h hk (by omega) (hend (by omega))

/-- Settles O50: the accepted command ends held, its digest and flags those of the acceptance. -/
theorem hash64FaultsOnAnyRefusedByte : Obligations.Hash64FaultsOnAnyRefusedByte := by
  rintro s ready ⟨k, hk, hx⟩
  obtain ⟨fault, same⟩ := runCommand_refused (s := accept (latch s)) hx hk rfl fun h97 => latch_endOff_toNat h97
  exact ⟨_, execHash64_of_ready ready, fault, same.busy, same.done, same.running Phase.noConfusion, same.digest,
    same.mem⟩

/-! ### The command step by step -/

/-- `k` steps of the machine, `BUSY` and not `DONE` before each of them. -/
inductive CoreRun : Nat → State → State → Prop
  | zero (s : State) : CoreRun 0 s s
  | succ {k : Nat} {s t u : State} (busy : s.busy = true) (notDone : s.done = false) (first : step s = .next t)
      (rest : CoreRun k t u) : CoreRun (k + 1) s u

theorem CoreRun.single (hb : s.busy = true) (hd : s.done = false) (h : step s = .next t) : CoreRun 1 s t :=
  .succ hb hd h (.zero t)

theorem CoreRun.trans {j k : Nat} (h : CoreRun j s t) (g : CoreRun k t u) : CoreRun (j + k) s u := by
  induction h with
  | zero => rwa [Nat.zero_add]
  | succ hb hd first _ ih =>
    rw [Nat.add_right_comm]
    exact .succ hb hd first (ih g)

theorem CoreRun.runSteps_eq {k : Nat} (h : CoreRun k s t) : runSteps k s = .next t := by
  induction h with
  | zero => rfl
  | succ _ _ first _ ih => rw [runSteps_succ first, ih]

theorem CoreRun.busy_before {k : Nat} (h : CoreRun k s t) :
    ∀ j < k, ∃ u, runSteps j s = .next u ∧ u.busy = true ∧ u.done = false := by
  induction h with
  | zero => exact fun j hj => absurd hj (Nat.not_lt_zero j)
  | @succ k s t u hb hd first _ ih =>
    intro j hj
    cases j with
    | zero => exact ⟨s, rfl, hb, hd⟩
    | succ j =>
      rw [runSteps_succ first]
      exact ih j (Nat.lt_of_succ_lt_succ hj)

/-- The core can go on with a command in progress: nothing is pending and no MemFault is recorded. -/
structure Going (s : State) : Prop where
  agenda : s.agenda = []
  noFault : s.memFault = false
  busy : s.busy = true
  notDone : s.done = false

theorem Going.of_sameCommand (h : Going s) (same : SameCommand s t) (hf : t.memFault = false) : Going t :=
  ⟨same.agenda.trans h.agenda, hf, same.busy.trans h.busy, same.done.trans h.notDone⟩

/-- The block steps of the loop, one by one: as many as there are blocks up to `END`, where the phase becomes `FINAL`,
or fewer and a MemFault. -/
theorem coreRun_runBlocks (tier : StreamTier x init block final) (k : Nat) (s : State) (h : Going s)
    (hp : s.phase = if k = 0 then .final else .block) (ht : s.tier = x) (hk : s.pos.toNat + 64 * k = s.endOff.toNat) :
    ∃ j ≤ k, CoreRun j s (runBlocks block k s) ∧
      ((runBlocks block k s).memFault = false → j = k ∧ (runBlocks block k s).phase = .final) := by
  induction k generalizing s with
  | zero => exact ⟨0, le_rfl, .zero s, fun _ => ⟨rfl, hp⟩⟩
  | succ k ih =>
    have first := tier.blockStep s h.agenda h.noFault hp ht
    rw [runBlocks]
    split <;> rename_i e
    · obtain ⟨w, rfl⟩ := tier.movesOn _ _ e
      rw [e, commit_ok] at first
      have hpos : (s.pos + 64).toNat = s.pos.toNat + 64 := by
        have := s.endOff.isLt
        bv_omega
      have last : s.pos + 64 = s.endOff ↔ k = 0 := by
        rw [← BitVec.toNat_inj, hpos]
        omega
      have hphase : (advanceBlock (setWork w s)).phase = if k = 0 then .final else .block := by
        simp only [advanceBlock_phase, setWork_pos, setWork_endOff, setWork_phase, last, hp, Nat.add_one_ne_zero,
          if_false]
      obtain ⟨j, hj, run, steps⟩ := ih _ (h.of_sameCommand (sameCommand_advanceBlock w s) h.noFault) hphase ht
        (by rw [advanceBlock_pos, advanceBlock_endOff, setWork_pos, setWork_endOff, hpos]; omega)
      refine ⟨j + 1, by omega, .succ h.busy h.notDone first run, fun hf => ?_⟩
      obtain ⟨rfl, hfinal⟩ := steps hf
      exact ⟨rfl, hfinal⟩
    · rw [e, commit_error] at first
      exact ⟨1, by omega, .single h.busy h.notDone first, fun hf => by cases hf⟩

/-- A streaming routine, step by step: `INIT`, the block steps and `FINAL`, or fewer and a MemFault. -/
theorem coreRun_runStream (tier : StreamTier x init block final) (h : Going s) (hp : s.phase = .init) (ht : s.tier = x)
    {k : Nat} (hk : s.endOff.toNat = 64 * (k + 1)) :
    ∃ j ≤ 2 + blockCount s.endOff, CoreRun j s (runStream init block final s) ∧
      ((runStream init block final s).memFault = false → j = 2 + blockCount s.endOff) := by
  have count : blockCount s.endOff = k + 1 := by rw [blockCount]; omega
  have first := tier.initStep s h.agenda h.noFault hp ht
  rw [count]
  unfold runStream
  rw [count]
  split
  · rename_i e
    rw [e, commit_error] at first
    exact ⟨1, by omega, .single h.busy h.notDone first, fun hf => by cases hf⟩
  · rename_i e
    obtain ⟨w, rfl⟩ := tier.enters _ _ e
    rw [e, commit_ok] at first
    have entered := CoreRun.single h.busy h.notDone first
    have going : Going (enterLoop (setWork w s)) := h.of_sameCommand (sameCommand_enterLoop w s) h.noFault
    obtain ⟨j, hj, loop, steps⟩ := coreRun_runBlocks tier (k + 1) (enterLoop (setWork w s)) going rfl ht (by simp [hk])
    have same := sameCommand_runBlocks tier.movesOn (k + 1) (enterLoop (setWork w s))
    dsimp only
    generalize runBlocks block (k + 1) (enterLoop (setWork w s)) = v at *
    split
    · rename_i hfault
      exact ⟨1 + j, by omega, entered.trans loop, fun hf => by cases hfault.symm.trans hf⟩
    · rename_i hno
      have hf : v.memFault = false := Bool.eq_false_of_not_eq_true hno
      obtain ⟨rfl, hfinal⟩ := steps hf
      have looped := going.of_sameCommand same hf
      have last := tier.finalStep v looped.agenda hf hfinal (same.tier.trans ht)
      exact ⟨1 + (k + 1) + 1, by omega, (entered.trans loop).trans (.single looped.busy looped.notDone last),
        fun _ => by omega⟩

/-- The accepted command, step by step: as many steps as its length takes, or fewer and a MemFault. -/
theorem coreRun_runCommand (h : Going s) (hp : s.phase = .init) (ht : s.tier = dispatch s.len)
    (hend : 97 ≤ s.len.toNat → s.endOff.toNat = (s.len.toNat - 1) / 64 * 64) :
    ∃ j ≤ commandSteps s.len.toNat, CoreRun j s (runCommand s) ∧
      ((runCommand s).memFault = false → j = commandSteps s.len.toNat) := by
  have long (lo : 97 ≤ s.len.toNat) : s.endOff.toNat = 64 * ((s.len.toNat - 1) / 64 - 1 + 1) ∧
      commandSteps s.len.toNat = 2 + blockCount s.endOff := by
    have hend := hend lo
    rw [commandSteps, if_neg (by omega), blockCount]
    omega
  obtain ⟨hi, e⟩ | ⟨lo, -, na, e⟩ | ⟨lo, uo, e⟩ := runCommand_cases ht
  · rw [e, commandSteps, if_pos (by omega)]
    exact ⟨1, le_rfl, .single h.busy h.notDone (step_runTier h.agenda h.noFault hp), fun _ => rfl⟩
  · obtain ⟨blocks, steps⟩ := long lo
    rw [e, steps]
    exact coreRun_runStream streamTier_na h hp na blocks
  · obtain ⟨blocks, steps⟩ := long (by omega)
    rw [e, steps]
    exact coreRun_runStream streamTier_uo h hp uo blocks

/-- Settles O51: the accepted command, step by step. -/
theorem hash64IsAcceptanceThenCoreSteps : Obligations.Hash64IsAcceptanceThenCoreSteps := by
  intro s t ready hl h
  obtain rfl : runCommand (accept (latch s)) = t := Host.Outcome.next.inj ((execHash64_of_ready ready).symm.trans h)
  have going : Going (accept (latch s)) := ⟨hl, ready.noFault, rfl, rfl⟩
  obtain ⟨j, hj, run, steps⟩ := coreRun_runCommand going rfl rfl fun h97 => latch_endOff_toNat h97
  exact ⟨accept (latch s), j, startAccept_of_ready ready, run.runSteps_eq, hj, steps⟩

theorem MachineInv.going (inv : MachineInv s) (hl : s.agenda = []) (hp : s.phase ≠ .idle) (hf : s.memFault = false) :
    Going s where
  agenda := hl
  noFault := hf
  busy := inv.busyIsRunning.mpr hp
  notDone := Bool.eq_false_of_not_eq_true fun hd => inv.notBusyAndDone ⟨inv.busyIsRunning.mpr hp, hd⟩

/-- Settles O52: the streaming routine, step by step, for the `END` that the invariant gives. -/
theorem streamingRoutinesAreTheirSteps : Obligations.StreamingRoutinesAreTheirSteps := by
  intro s t inv hl hp hf
  have running : s.phase ≠ .idle := by simp [hp]
  have blocks (ht : s.tier = .na ∨ s.tier = .uo) :
      s.endOff.toNat = 64 * ((s.len.toNat - 1) / 64 - 1 + 1) := by
    have h97 := inv.streaming_length running ht
    have := inv.endOfLength running h97
    omega
  refine ⟨fun ht h hft => ?_, fun ht h hft => ?_⟩
  · obtain rfl : runNa s = t := Host.Outcome.next.inj ((sequencerStep_in (.ok (runNa s)) hp ht hf).symm.trans h)
    obtain ⟨j, -, run, steps⟩ := coreRun_runStream streamTier_na (inv.going hl running hf) hp ht (blocks (.inl ht))
    exact steps hft ▸ run.runSteps_eq
  · obtain rfl : runUo s = t := Host.Outcome.next.inj ((sequencerStep_in (.ok (runUo s)) hp ht hf).symm.trans h)
    obtain ⟨j, -, run, steps⟩ := coreRun_runStream streamTier_uo (inv.going hl running hf) hp ht (blocks (.inr ht))
    exact steps hft ▸ run.runSteps_eq

/-- Settles O53: the command over a held window records no MemFault, so it takes all its steps, each of them `BUSY`. -/
theorem acceptedCommandsComplete : Obligations.AcceptedCommandsComplete := by
  intro s B inv h hp hl
  have ht := inv.tierOfLength h.running
  have hend := inv.endOfLength h.running
  obtain ⟨j, -, run, steps⟩ := coreRun_runCommand (inv.going hl h.running h.noFault) hp ht hend
  rw [h.size] at hend steps
  obtain ⟨regs, p, f, hrun, -⟩ := runCommand_completes h ht hend
  rw [hrun] at run steps
  obtain rfl := steps h.noFault
  exact ⟨⟨_, run.runSteps_eq, rfl, rfl, rfl, rfl⟩, run.busy_before⟩

end Sys2Proof.Machine
end
